-- ==== Sys2Proof/Word.lean ====
section
/-! DEFINITION. The two word types of the hardware (spec/00_scope.md R6): 8-bit data, 16-bit addresses.
Helpers that take a word apart or put one together stand in Decode.lean and Machine/. -/

namespace Sys2Proof

/-- A u8: register contents, memory cells, operand bytes (R6, R8). -/
abbrev Byte := BitVec 8

/-- A u16: addresses, `PC`, `SP` (R6, R8). Sums of addresses wrap modulo 65536 by the type (R38). -/
abbrev Addr := BitVec 16

end Sys2Proof
end

