-- ==== Sys2Proof/Syntax.lean ====
section
/-! DEFINITION. The abstract syntax: the eighteen mnemonics (R3), the eleven modes (R52), and `Instr` with
one constructor per row of spec/opcode_table.json (the 79 (mnemonic, mode) pairs of R55, R56).
An operand is typed by the width its format gives it (R51, R53): one byte or one little-endian address. -/

namespace Sys2Proof

/-- The eighteen instructions (R3). -/
inductive Mnemonic where
  | lda | ldx | ldy | sta | stx | sty | adc | sbc
  | inc | dec | inx | iny | dex | dey | asl | lsr | rol | ror
  deriving DecidableEq, Repr

/-- The operand forms (R52): seven addressing computations with their X and Y variants, and the two
register forms `IMP` and `ACC` that bypass the resolver (R83). -/
inductive Mode where
  | imp | acc | imm | zp | zpx | zpy | abs | abx | aby | izx | izy
  deriving DecidableEq, Repr

/-- The number of operand bytes a mode's resolver fetches (R50, R52). -/
def Mode.operandBytes : Mode → Nat
  | .imp | .acc => 0
  | .imm | .zp | .zpx | .zpy | .izx | .izy => 1
  | .abs | .abx | .aby => 2

/-- The register an opcode names (R10, R11). -/
inductive Reg where
  | a | x | y
  deriving DecidableEq, Repr

/-- A memory addressing mode together with the operand its resolver has fetched (R74, R76 to R81). -/
inductive MemOperand where
  | zp (nn : Byte) | zpx (nn : Byte) | zpy (nn : Byte)
  | abs (hhll : Addr) | abx (hhll : Addr) | aby (hhll : Addr)
  | izx (nn : Byte) | izy (nn : Byte)
  deriving DecidableEq, Repr

/-- The delta of a memory or register step, +1 or -1 (R54, R130, R133). -/
inductive Delta where
  | inc | dec
  deriving DecidableEq, Repr

/-- The four shift and rotate functions (R140 to R144). -/
inductive ShiftOp where
  | asl | lsr | rol | ror
  deriving DecidableEq, Repr

/-- What the decode stage tells the handlers (R54, R160): the family, the register select, the delta,
and the operand. -/
inductive Control where
  | loadImm (r : Reg) (v : Byte) | loadMem (r : Reg) (m : MemOperand)
  | store (r : Reg) (m : MemOperand)
  | addImm (v : Byte) | addMem (m : MemOperand)
  | subImm (v : Byte) | subMem (m : MemOperand)
  | stepMem (δ : Delta) (m : MemOperand) | stepReg (r : Reg) (δ : Delta)
  | shiftAcc (op : ShiftOp) | shiftMem (op : ShiftOp) (m : MemOperand)
  deriving DecidableEq, Repr

/-- The 79 machine instructions, one constructor per row of the opcode table (R55, R56), named by
mnemonic and mode. -/
inductive Instr where
  -- load (spec/41_load.md)
  | ldaImm (v : Byte) | ldaZp (nn : Byte) | ldaZpx (nn : Byte) | ldaAbs (hhll : Addr) | ldaAbx (hhll : Addr)
  | ldaAby (hhll : Addr) | ldaIzx (nn : Byte) | ldaIzy (nn : Byte)
  | ldxImm (v : Byte) | ldxZp (nn : Byte) | ldxZpy (nn : Byte) | ldxAbs (hhll : Addr) | ldxAby (hhll : Addr)
  | ldyImm (v : Byte) | ldyZp (nn : Byte) | ldyZpx (nn : Byte) | ldyAbs (hhll : Addr) | ldyAbx (hhll : Addr)
  -- store (spec/42_store.md)
  | staZp (nn : Byte) | staZpx (nn : Byte) | staAbs (hhll : Addr) | staAbx (hhll : Addr)
  | staAby (hhll : Addr) | staIzx (nn : Byte) | staIzy (nn : Byte)
  | stxZp (nn : Byte) | stxZpy (nn : Byte) | stxAbs (hhll : Addr)
  | styZp (nn : Byte) | styZpx (nn : Byte) | styAbs (hhll : Addr)
  -- add and subtract (spec/43_add_subtract.md)
  | adcImm (v : Byte) | adcZp (nn : Byte) | adcZpx (nn : Byte) | adcAbs (hhll : Addr) | adcAbx (hhll : Addr)
  | adcAby (hhll : Addr) | adcIzx (nn : Byte) | adcIzy (nn : Byte)
  | sbcImm (v : Byte) | sbcZp (nn : Byte) | sbcZpx (nn : Byte) | sbcAbs (hhll : Addr) | sbcAbx (hhll : Addr)
  | sbcAby (hhll : Addr) | sbcIzx (nn : Byte) | sbcIzy (nn : Byte)
  -- increment and decrement (spec/44_inc_dec.md)
  | incZp (nn : Byte) | incZpx (nn : Byte) | incAbs (hhll : Addr) | incAbx (hhll : Addr)
  | decZp (nn : Byte) | decZpx (nn : Byte) | decAbs (hhll : Addr) | decAbx (hhll : Addr)
  | inx
  | iny
  | dex
  | dey
  -- shift and rotate (spec/45_shift_rotate.md)
  | aslAcc | aslZp (nn : Byte) | aslZpx (nn : Byte) | aslAbs (hhll : Addr) | aslAbx (hhll : Addr)
  | lsrAcc | lsrZp (nn : Byte) | lsrZpx (nn : Byte) | lsrAbs (hhll : Addr) | lsrAbx (hhll : Addr)
  | rolAcc | rolZp (nn : Byte) | rolZpx (nn : Byte) | rolAbs (hhll : Addr) | rolAbx (hhll : Addr)
  | rorAcc | rorZp (nn : Byte) | rorZpx (nn : Byte) | rorAbs (hhll : Addr) | rorAbx (hhll : Addr)
  deriving DecidableEq, Repr

/-- The row's mnemonic. -/
def Instr.mnemonic : Instr → Mnemonic
  | .ldaImm _ | .ldaZp _ | .ldaZpx _ | .ldaAbs _ | .ldaAbx _ | .ldaAby _ | .ldaIzx _
  | .ldaIzy _ => .lda
  | .ldxImm _ | .ldxZp _ | .ldxZpy _ | .ldxAbs _ | .ldxAby _ => .ldx
  | .ldyImm _ | .ldyZp _ | .ldyZpx _ | .ldyAbs _ | .ldyAbx _ => .ldy
  | .staZp _ | .staZpx _ | .staAbs _ | .staAbx _ | .staAby _ | .staIzx _ | .staIzy _ => .sta
  | .stxZp _ | .stxZpy _ | .stxAbs _ => .stx
  | .styZp _ | .styZpx _ | .styAbs _ => .sty
  | .adcImm _ | .adcZp _ | .adcZpx _ | .adcAbs _ | .adcAbx _ | .adcAby _ | .adcIzx _
  | .adcIzy _ => .adc
  | .sbcImm _ | .sbcZp _ | .sbcZpx _ | .sbcAbs _ | .sbcAbx _ | .sbcAby _ | .sbcIzx _
  | .sbcIzy _ => .sbc
  | .incZp _ | .incZpx _ | .incAbs _ | .incAbx _ => .inc
  | .decZp _ | .decZpx _ | .decAbs _ | .decAbx _ => .dec
  | .inx => .inx
  | .iny => .iny
  | .dex => .dex
  | .dey => .dey
  | .aslAcc | .aslZp _ | .aslZpx _ | .aslAbs _ | .aslAbx _ => .asl
  | .lsrAcc | .lsrZp _ | .lsrZpx _ | .lsrAbs _ | .lsrAbx _ => .lsr
  | .rolAcc | .rolZp _ | .rolZpx _ | .rolAbs _ | .rolAbx _ => .rol
  | .rorAcc | .rorZp _ | .rorZpx _ | .rorAbs _ | .rorAbx _ => .ror

/-- The row's mode. -/
def Instr.mode : Instr → Mode
  | .inx | .iny | .dex | .dey => .imp
  | .aslAcc | .lsrAcc | .rolAcc | .rorAcc => .acc
  | .ldaImm _ | .ldxImm _ | .ldyImm _ | .adcImm _ | .sbcImm _ => .imm
  | .ldaZp _ | .ldxZp _ | .ldyZp _ | .staZp _ | .stxZp _ | .styZp _ | .adcZp _ | .sbcZp _
  | .incZp _ | .decZp _ | .aslZp _ | .lsrZp _ | .rolZp _ | .rorZp _ => .zp
  | .ldaZpx _ | .ldyZpx _ | .staZpx _ | .styZpx _ | .adcZpx _ | .sbcZpx _ | .incZpx _
  | .decZpx _ | .aslZpx _ | .lsrZpx _ | .rolZpx _ | .rorZpx _ => .zpx
  | .ldxZpy _ | .stxZpy _ => .zpy
  | .ldaAbs _ | .ldxAbs _ | .ldyAbs _ | .staAbs _ | .stxAbs _ | .styAbs _ | .adcAbs _
  | .sbcAbs _ | .incAbs _ | .decAbs _ | .aslAbs _ | .lsrAbs _ | .rolAbs _ | .rorAbs _ => .abs
  | .ldaAbx _ | .ldyAbx _ | .staAbx _ | .adcAbx _ | .sbcAbx _ | .incAbx _ | .decAbx _
  | .aslAbx _ | .lsrAbx _ | .rolAbx _ | .rorAbx _ => .abx
  | .ldaAby _ | .ldxAby _ | .staAby _ | .adcAby _ | .sbcAby _ => .aby
  | .ldaIzx _ | .staIzx _ | .adcIzx _ | .sbcIzx _ => .izx
  | .ldaIzy _ | .staIzy _ | .adcIzy _ | .sbcIzy _ => .izy

/-- The operand as a number: the operand byte, the operand address, or 0 where the mode has none (R53). -/
def Instr.operand : Instr → Nat
  | .ldaImm v | .ldxImm v | .ldyImm v | .adcImm v | .sbcImm v => v.toNat
  | .ldaZp nn | .ldaZpx nn | .ldaIzx nn | .ldaIzy nn | .ldxZp nn | .ldxZpy nn | .ldyZp nn
  | .ldyZpx nn | .staZp nn | .staZpx nn | .staIzx nn | .staIzy nn | .stxZp nn | .stxZpy nn
  | .styZp nn | .styZpx nn | .adcZp nn | .adcZpx nn | .adcIzx nn | .adcIzy nn | .sbcZp nn
  | .sbcZpx nn | .sbcIzx nn | .sbcIzy nn | .incZp nn | .incZpx nn | .decZp nn | .decZpx nn
  | .aslZp nn | .aslZpx nn | .lsrZp nn | .lsrZpx nn | .rolZp nn | .rolZpx nn | .rorZp nn
  | .rorZpx nn => nn.toNat
  | .ldaAbs hhll | .ldaAbx hhll | .ldaAby hhll | .ldxAbs hhll | .ldxAby hhll | .ldyAbs hhll
  | .ldyAbx hhll | .staAbs hhll | .staAbx hhll | .staAby hhll | .stxAbs hhll | .styAbs hhll
  | .adcAbs hhll | .adcAbx hhll | .adcAby hhll | .sbcAbs hhll | .sbcAbx hhll | .sbcAby hhll
  | .incAbs hhll | .incAbx hhll | .decAbs hhll | .decAbx hhll | .aslAbs hhll | .aslAbx hhll
  | .lsrAbs hhll | .lsrAbx hhll | .rolAbs hhll | .rolAbx hhll | .rorAbs hhll | .rorAbx hhll => hhll.toNat
  | .inx | .iny | .dex | .dey | .aslAcc | .lsrAcc | .rolAcc | .rorAcc => 0

/-- The length in bytes: the opcode byte and the mode's operand bytes (R50). -/
def Instr.length (i : Instr) : Nat := 1 + i.mode.operandBytes

end Sys2Proof
end

