-- ==== Sys2Proof/Decode.lean ====
section
/-! DEFINITION. The decode stage (R50 to R58): the opcode map, a decoder that is total on any bytes and
rejects by name, and the encoder written from the same table. -/

namespace Sys2Proof

/-- Two bytes as an address, low byte first (R37 a, R53). -/
def wordOfBytes (lo hi : Byte) : Addr := hi ++ lo

/-- Bits 7:0 of an address. -/
def lowByte (w : Addr) : Byte := w.extractLsb' 0 8

/-- Bits 15:8 of an address. -/
def highByte (w : Addr) : Byte := w.extractLsb' 8 8

/-- What an opcode byte selects, by the three formats of R51: something without operand bytes, something
built from an operand byte, or something built from an operand address. -/
inductive Format (ι : Type) where
  | f1 (i : ι)
  | f2 (build : Byte → ι)
  | f3 (build : Addr → ι)

/-- The number of operand bytes of a format (R50, R51). -/
def Format.operandBytes {ι : Type} : Format ι → Nat
  | .f1 _ => 0
  | .f2 _ => 1
  | .f3 _ => 2

/-- `OPCODE_MAP` with each known byte's format worked out: what the decode stage looks up (R54). -/
abbrev FormatMap (ι : Type) := Byte → Option (Format ι)

/-- The type of the parameter `OPCODE_MAP` (R7, R54, D1, D2): which bytes are known, and as which
instruction in which mode; the index register is part of the mode's name (R52). -/
abbrev OpcodeMap := Byte → Option (Mnemonic × Mode)

/-- Row 0x of the grid of R57 (R56). -/
def opcodeRow0 : List (Byte × Format Instr) := [
  (0x06#8, .f2 .aslZp), (0x0A#8, .f1 .aslAcc), (0x0E#8, .f3 .aslAbs)]

/-- Row 1x of the grid of R57 (R56). -/
def opcodeRow1 : List (Byte × Format Instr) := [
  (0x16#8, .f2 .aslZpx), (0x1E#8, .f3 .aslAbx)]

/-- Row 2x of the grid of R57 (R56). -/
def opcodeRow2 : List (Byte × Format Instr) := [
  (0x26#8, .f2 .rolZp), (0x2A#8, .f1 .rolAcc), (0x2E#8, .f3 .rolAbs)]

/-- Row 3x of the grid of R57 (R56). -/
def opcodeRow3 : List (Byte × Format Instr) := [
  (0x36#8, .f2 .rolZpx), (0x3E#8, .f3 .rolAbx)]

/-- Row 4x of the grid of R57 (R56). -/
def opcodeRow4 : List (Byte × Format Instr) := [
  (0x46#8, .f2 .lsrZp), (0x4A#8, .f1 .lsrAcc), (0x4E#8, .f3 .lsrAbs)]

/-- Row 5x of the grid of R57 (R56). -/
def opcodeRow5 : List (Byte × Format Instr) := [
  (0x56#8, .f2 .lsrZpx), (0x5E#8, .f3 .lsrAbx)]

/-- Row 6x of the grid of R57 (R56). -/
def opcodeRow6 : List (Byte × Format Instr) := [
  (0x61#8, .f2 .adcIzx), (0x65#8, .f2 .adcZp), (0x66#8, .f2 .rorZp), (0x69#8, .f2 .adcImm),
  (0x6A#8, .f1 .rorAcc), (0x6D#8, .f3 .adcAbs), (0x6E#8, .f3 .rorAbs)]

/-- Row 7x of the grid of R57 (R56). -/
def opcodeRow7 : List (Byte × Format Instr) := [
  (0x71#8, .f2 .adcIzy), (0x75#8, .f2 .adcZpx), (0x76#8, .f2 .rorZpx), (0x79#8, .f3 .adcAby),
  (0x7D#8, .f3 .adcAbx), (0x7E#8, .f3 .rorAbx)]

/-- Row 8x of the grid of R57 (R56). -/
def opcodeRow8 : List (Byte × Format Instr) := [
  (0x81#8, .f2 .staIzx), (0x84#8, .f2 .styZp), (0x85#8, .f2 .staZp), (0x86#8, .f2 .stxZp),
  (0x88#8, .f1 .dey), (0x8C#8, .f3 .styAbs), (0x8D#8, .f3 .staAbs), (0x8E#8, .f3 .stxAbs)]

/-- Row 9x of the grid of R57 (R56). -/
def opcodeRow9 : List (Byte × Format Instr) := [
  (0x91#8, .f2 .staIzy), (0x94#8, .f2 .styZpx), (0x95#8, .f2 .staZpx), (0x96#8, .f2 .stxZpy),
  (0x99#8, .f3 .staAby), (0x9D#8, .f3 .staAbx)]

/-- Row Ax of the grid of R57 (R56). -/
def opcodeRowA : List (Byte × Format Instr) := [
  (0xA0#8, .f2 .ldyImm), (0xA1#8, .f2 .ldaIzx), (0xA2#8, .f2 .ldxImm), (0xA4#8, .f2 .ldyZp),
  (0xA5#8, .f2 .ldaZp), (0xA6#8, .f2 .ldxZp), (0xA9#8, .f2 .ldaImm), (0xAC#8, .f3 .ldyAbs),
  (0xAD#8, .f3 .ldaAbs), (0xAE#8, .f3 .ldxAbs)]

/-- Row Bx of the grid of R57 (R56). -/
def opcodeRowB : List (Byte × Format Instr) := [
  (0xB1#8, .f2 .ldaIzy), (0xB4#8, .f2 .ldyZpx), (0xB5#8, .f2 .ldaZpx), (0xB6#8, .f2 .ldxZpy),
  (0xB9#8, .f3 .ldaAby), (0xBC#8, .f3 .ldyAbx), (0xBD#8, .f3 .ldaAbx), (0xBE#8, .f3 .ldxAby)]

/-- Row Cx of the grid of R57 (R56). -/
def opcodeRowC : List (Byte × Format Instr) := [
  (0xC6#8, .f2 .decZp), (0xC8#8, .f1 .iny), (0xCA#8, .f1 .dex), (0xCE#8, .f3 .decAbs)]

/-- Row Dx of the grid of R57 (R56). -/
def opcodeRowD : List (Byte × Format Instr) := [
  (0xD6#8, .f2 .decZpx), (0xDE#8, .f3 .decAbx)]

/-- Row Ex of the grid of R57 (R56). -/
def opcodeRowE : List (Byte × Format Instr) := [
  (0xE1#8, .f2 .sbcIzx), (0xE5#8, .f2 .sbcZp), (0xE6#8, .f2 .incZp), (0xE8#8, .f1 .inx),
  (0xE9#8, .f2 .sbcImm), (0xED#8, .f3 .sbcAbs), (0xEE#8, .f3 .incAbs)]

/-- Row Fx of the grid of R57 (R56). -/
def opcodeRowF : List (Byte × Format Instr) := [
  (0xF1#8, .f2 .sbcIzy), (0xF5#8, .f2 .sbcZpx), (0xF6#8, .f2 .incZpx), (0xF9#8, .f3 .sbcAby),
  (0xFD#8, .f3 .sbcAbx), (0xFE#8, .f3 .incAbx)]

/-- The 79 rows of R56, sorted by byte. PRESUMED by the spec (R55, R56: from general knowledge); log
entry 5. -/
def opcodeTable : List (Byte × Format Instr) :=
  opcodeRow0 ++ opcodeRow1 ++ opcodeRow2 ++ opcodeRow3 ++ opcodeRow4 ++ opcodeRow5 ++ opcodeRow6 ++ opcodeRow7 ++
  opcodeRow8 ++ opcodeRow9 ++ opcodeRowA ++ opcodeRowB ++ opcodeRowC ++ opcodeRowD ++ opcodeRowE ++ opcodeRowF

/-- The decode stage under the default map (R54, R56). A byte outside the table is an unknown opcode
(R57). -/
def instrFormat : FormatMap Instr := fun b => (opcodeTable.find? fun row => row.1 == b).map (·.2)

/-- The instruction and the mode of a row; they do not depend on the operand. -/
def Format.pair : Format Instr → Mnemonic × Mode
  | .f1 i => (i.mnemonic, i.mode)
  | .f2 build => ((build 0).mnemonic, (build 0).mode)
  | .f3 build => ((build 0).mnemonic, (build 0).mode)

/-- `OPCODE_MAP` at its default (R7, R56). -/
def opcodeMap : OpcodeMap := fun b => (instrFormat b).map Format.pair

/-- What the decoder answers. -/
inductive Decoded (ι : Type) where
  /-- an instruction and the bytes after it -/
  | instr (i : ι) (rest : List Byte)
  /-- the opcode byte is not mapped (R57) -/
  | unknownOpcode (b : Byte)
  /-- the list ends before the instruction does (of the decoder only: memory never ends, R50) -/
  | truncated
  deriving DecidableEq, Repr

/-- The bytes after the opcode byte, read by its format (R50, R51, R53). -/
def Format.read {ι : Type} : Format ι → List Byte → Decoded ι
  | .f1 i, rest => .instr i rest
  | .f2 build, nn :: rest => .instr (build nn) rest
  | .f3 build, ll :: hh :: rest => .instr (build (wordOfBytes ll hh)) rest
  | .f2 _, [] | .f3 _, [] | .f3 _, [_] => .truncated

/-- The decoder under a map: the opcode byte alone fixes instruction, mode and length (R50, R54). -/
def decodeWith {ι : Type} (map : FormatMap ι) : List Byte → Decoded ι
  | [] => .truncated
  | b :: rest =>
    match map b with
    | none => .unknownOpcode b
    | some f => f.read rest

/-- The decoder under the default map. -/
def decode (bytes : List Byte) : Decoded Instr := decodeWith instrFormat bytes

/-- The three bytes of a table word, the first word lowest (R51 c: ascending addresses); every bit
above `nbits` is 0. -/
def tableBytes (nbits w : Nat) : List Byte :=
  let k := w % 2 ^ nbits
  [BitVec.ofNat 8 k, BitVec.ofNat 8 (k / 256), BitVec.ofNat 8 (k / 65536)]

/-- The instruction the decoder reads from a word numbered as spec/opcode_table.json numbers it. -/
def decodeTableWord (nbits w : Nat) : Option Instr :=
  match decode (tableBytes nbits w) with
  | .instr i _ => some i
  | .unknownOpcode _ | .truncated => none

/-- The opcode byte of each instruction (the matrix of R55). -/
def Instr.opcode : Instr → Byte
  | .ldaImm _ => 0xA9#8
  | .ldaZp _ => 0xA5#8
  | .ldaZpx _ => 0xB5#8
  | .ldaAbs _ => 0xAD#8
  | .ldaAbx _ => 0xBD#8
  | .ldaAby _ => 0xB9#8
  | .ldaIzx _ => 0xA1#8
  | .ldaIzy _ => 0xB1#8
  | .ldxImm _ => 0xA2#8
  | .ldxZp _ => 0xA6#8
  | .ldxZpy _ => 0xB6#8
  | .ldxAbs _ => 0xAE#8
  | .ldxAby _ => 0xBE#8
  | .ldyImm _ => 0xA0#8
  | .ldyZp _ => 0xA4#8
  | .ldyZpx _ => 0xB4#8
  | .ldyAbs _ => 0xAC#8
  | .ldyAbx _ => 0xBC#8
  | .staZp _ => 0x85#8
  | .staZpx _ => 0x95#8
  | .staAbs _ => 0x8D#8
  | .staAbx _ => 0x9D#8
  | .staAby _ => 0x99#8
  | .staIzx _ => 0x81#8
  | .staIzy _ => 0x91#8
  | .stxZp _ => 0x86#8
  | .stxZpy _ => 0x96#8
  | .stxAbs _ => 0x8E#8
  | .styZp _ => 0x84#8
  | .styZpx _ => 0x94#8
  | .styAbs _ => 0x8C#8
  | .adcImm _ => 0x69#8
  | .adcZp _ => 0x65#8
  | .adcZpx _ => 0x75#8
  | .adcAbs _ => 0x6D#8
  | .adcAbx _ => 0x7D#8
  | .adcAby _ => 0x79#8
  | .adcIzx _ => 0x61#8
  | .adcIzy _ => 0x71#8
  | .sbcImm _ => 0xE9#8
  | .sbcZp _ => 0xE5#8
  | .sbcZpx _ => 0xF5#8
  | .sbcAbs _ => 0xED#8
  | .sbcAbx _ => 0xFD#8
  | .sbcAby _ => 0xF9#8
  | .sbcIzx _ => 0xE1#8
  | .sbcIzy _ => 0xF1#8
  | .incZp _ => 0xE6#8
  | .incZpx _ => 0xF6#8
  | .incAbs _ => 0xEE#8
  | .incAbx _ => 0xFE#8
  | .decZp _ => 0xC6#8
  | .decZpx _ => 0xD6#8
  | .decAbs _ => 0xCE#8
  | .decAbx _ => 0xDE#8
  | .inx => 0xE8#8
  | .iny => 0xC8#8
  | .dex => 0xCA#8
  | .dey => 0x88#8
  | .aslAcc => 0x0A#8
  | .aslZp _ => 0x06#8
  | .aslZpx _ => 0x16#8
  | .aslAbs _ => 0x0E#8
  | .aslAbx _ => 0x1E#8
  | .lsrAcc => 0x4A#8
  | .lsrZp _ => 0x46#8
  | .lsrZpx _ => 0x56#8
  | .lsrAbs _ => 0x4E#8
  | .lsrAbx _ => 0x5E#8
  | .rolAcc => 0x2A#8
  | .rolZp _ => 0x26#8
  | .rolZpx _ => 0x36#8
  | .rolAbs _ => 0x2E#8
  | .rolAbx _ => 0x3E#8
  | .rorAcc => 0x6A#8
  | .rorZp _ => 0x66#8
  | .rorZpx _ => 0x76#8
  | .rorAbs _ => 0x6E#8
  | .rorAbx _ => 0x7E#8

/-- The operand bytes in memory order (R37 a, R51). -/
def Instr.operandBytes : Instr → List Byte
  | .ldaImm v | .ldxImm v | .ldyImm v | .adcImm v | .sbcImm v => [v]
  | .ldaZp nn | .ldaZpx nn | .ldaIzx nn | .ldaIzy nn | .ldxZp nn | .ldxZpy nn | .ldyZp nn
  | .ldyZpx nn | .staZp nn | .staZpx nn | .staIzx nn | .staIzy nn | .stxZp nn | .stxZpy nn
  | .styZp nn | .styZpx nn | .adcZp nn | .adcZpx nn | .adcIzx nn | .adcIzy nn | .sbcZp nn
  | .sbcZpx nn | .sbcIzx nn | .sbcIzy nn | .incZp nn | .incZpx nn | .decZp nn | .decZpx nn
  | .aslZp nn | .aslZpx nn | .lsrZp nn | .lsrZpx nn | .rolZp nn | .rolZpx nn | .rorZp nn
  | .rorZpx nn => [nn]
  | .ldaAbs hhll | .ldaAbx hhll | .ldaAby hhll | .ldxAbs hhll | .ldxAby hhll | .ldyAbs hhll
  | .ldyAbx hhll | .staAbs hhll | .staAbx hhll | .staAby hhll | .stxAbs hhll | .styAbs hhll
  | .adcAbs hhll | .adcAbx hhll | .adcAby hhll | .sbcAbs hhll | .sbcAbx hhll | .sbcAby hhll
  | .incAbs hhll | .incAbx hhll | .decAbs hhll | .decAbx hhll | .aslAbs hhll | .aslAbx hhll
  | .lsrAbs hhll | .lsrAbx hhll | .rolAbs hhll | .rolAbx hhll | .rorAbs hhll | .rorAbx hhll => [lowByte hhll, highByte hhll]
  | .inx | .iny | .dex | .dey | .aslAcc | .lsrAcc | .rolAcc | .rorAcc => []

/-- The encoder: opcode byte, then operand bytes at ascending addresses (R37 c, R50, R51). -/
def encode (i : Instr) : List Byte := i.opcode :: i.operandBytes

/-! ### The derivation of R54 for any pair of an opcode map

An instruction with a mode its handler takes is a pair with a meaning: the resolver, then the handler
(D2), whether or not the default map has it. Nothing is derived for the others (`STA` in IMM, `INX` in ZP):
no rule gives a handler a result of the resolver it does not take (R75, R83; log entry 18). -/

/-- A handler that takes an address: the eight modes that give one (R52, R74). -/
def memFormat (handler : MemOperand → Control) : Mode → Option (Format Control)
  | .zp => some (.f2 fun nn => handler (.zp nn))
  | .zpx => some (.f2 fun nn => handler (.zpx nn))
  | .zpy => some (.f2 fun nn => handler (.zpy nn))
  | .abs => some (.f3 fun hhll => handler (.abs hhll))
  | .abx => some (.f3 fun hhll => handler (.abx hhll))
  | .aby => some (.f3 fun hhll => handler (.aby hhll))
  | .izx => some (.f2 fun nn => handler (.izx nn))
  | .izy => some (.f2 fun nn => handler (.izy nn))
  | .imp | .acc | .imm => none

/-- A handler that takes a value as well: the loads, `ADC` and `SBC` (R75). -/
def valueFormat (value : Byte → Control) (handler : MemOperand → Control) (md : Mode) : Option (Format Control) :=
  if md = .imm then some (.f2 value) else memFormat handler md

/-- A shift: target `A` in mode ACC, memory otherwise (R54, R83). -/
def shiftFormat (op : ShiftOp) (md : Mode) : Option (Format Control) :=
  if md = .acc then some (.f1 (.shiftAcc op)) else memFormat (.shiftMem op) md

/-- A register step: mode IMP, no operand (R83). -/
def stepRegFormat (r : Reg) (δ : Delta) (md : Mode) : Option (Format Control) :=
  if md = .imp then some (.f1 (.stepReg r δ)) else none

/-- Family, register select, delta and target of each instruction (R54). -/
def Mnemonic.format : Mnemonic → Mode → Option (Format Control)
  | .lda => valueFormat (.loadImm .a) (.loadMem .a)
  | .ldx => valueFormat (.loadImm .x) (.loadMem .x)
  | .ldy => valueFormat (.loadImm .y) (.loadMem .y)
  | .sta => memFormat (.store .a)
  | .stx => memFormat (.store .x)
  | .sty => memFormat (.store .y)
  | .adc => valueFormat .addImm .addMem
  | .sbc => valueFormat .subImm .subMem
  | .inc => memFormat (.stepMem .inc)
  | .dec => memFormat (.stepMem .dec)
  | .inx => stepRegFormat .x .inc
  | .iny => stepRegFormat .y .inc
  | .dex => stepRegFormat .x .dec
  | .dey => stepRegFormat .y .dec
  | .asl => shiftFormat .asl
  | .lsr => shiftFormat .lsr
  | .rol => shiftFormat .rol
  | .ror => shiftFormat .ror

/-- The decode stage under any opcode map (R7, R54). A byte mapped to a pair without a handler has no
(mode, handler) mapping: it is an unknown opcode (R57, R171; log entry 18). -/
def controlFormat (map : OpcodeMap) : FormatMap Control := fun b =>
  match map b with
  | none => none
  | some (mn, md) => mn.format md

/-- The decode stage's derivation of family, register select and delta from the instruction (R54). -/
def Instr.control : Instr → Control
  | .ldaImm v => .loadImm .a v
  | .ldaZp nn => .loadMem .a (.zp nn)
  | .ldaZpx nn => .loadMem .a (.zpx nn)
  | .ldaAbs hhll => .loadMem .a (.abs hhll)
  | .ldaAbx hhll => .loadMem .a (.abx hhll)
  | .ldaAby hhll => .loadMem .a (.aby hhll)
  | .ldaIzx nn => .loadMem .a (.izx nn)
  | .ldaIzy nn => .loadMem .a (.izy nn)
  | .ldxImm v => .loadImm .x v
  | .ldxZp nn => .loadMem .x (.zp nn)
  | .ldxZpy nn => .loadMem .x (.zpy nn)
  | .ldxAbs hhll => .loadMem .x (.abs hhll)
  | .ldxAby hhll => .loadMem .x (.aby hhll)
  | .ldyImm v => .loadImm .y v
  | .ldyZp nn => .loadMem .y (.zp nn)
  | .ldyZpx nn => .loadMem .y (.zpx nn)
  | .ldyAbs hhll => .loadMem .y (.abs hhll)
  | .ldyAbx hhll => .loadMem .y (.abx hhll)
  | .staZp nn => .store .a (.zp nn)
  | .staZpx nn => .store .a (.zpx nn)
  | .staAbs hhll => .store .a (.abs hhll)
  | .staAbx hhll => .store .a (.abx hhll)
  | .staAby hhll => .store .a (.aby hhll)
  | .staIzx nn => .store .a (.izx nn)
  | .staIzy nn => .store .a (.izy nn)
  | .stxZp nn => .store .x (.zp nn)
  | .stxZpy nn => .store .x (.zpy nn)
  | .stxAbs hhll => .store .x (.abs hhll)
  | .styZp nn => .store .y (.zp nn)
  | .styZpx nn => .store .y (.zpx nn)
  | .styAbs hhll => .store .y (.abs hhll)
  | .adcImm v => .addImm v
  | .adcZp nn => .addMem (.zp nn)
  | .adcZpx nn => .addMem (.zpx nn)
  | .adcAbs hhll => .addMem (.abs hhll)
  | .adcAbx hhll => .addMem (.abx hhll)
  | .adcAby hhll => .addMem (.aby hhll)
  | .adcIzx nn => .addMem (.izx nn)
  | .adcIzy nn => .addMem (.izy nn)
  | .sbcImm v => .subImm v
  | .sbcZp nn => .subMem (.zp nn)
  | .sbcZpx nn => .subMem (.zpx nn)
  | .sbcAbs hhll => .subMem (.abs hhll)
  | .sbcAbx hhll => .subMem (.abx hhll)
  | .sbcAby hhll => .subMem (.aby hhll)
  | .sbcIzx nn => .subMem (.izx nn)
  | .sbcIzy nn => .subMem (.izy nn)
  | .incZp nn => .stepMem .inc (.zp nn)
  | .incZpx nn => .stepMem .inc (.zpx nn)
  | .incAbs hhll => .stepMem .inc (.abs hhll)
  | .incAbx hhll => .stepMem .inc (.abx hhll)
  | .decZp nn => .stepMem .dec (.zp nn)
  | .decZpx nn => .stepMem .dec (.zpx nn)
  | .decAbs hhll => .stepMem .dec (.abs hhll)
  | .decAbx hhll => .stepMem .dec (.abx hhll)
  | .inx => .stepReg .x .inc
  | .iny => .stepReg .y .inc
  | .dex => .stepReg .x .dec
  | .dey => .stepReg .y .dec
  | .aslAcc => .shiftAcc .asl
  | .aslZp nn => .shiftMem .asl (.zp nn)
  | .aslZpx nn => .shiftMem .asl (.zpx nn)
  | .aslAbs hhll => .shiftMem .asl (.abs hhll)
  | .aslAbx hhll => .shiftMem .asl (.abx hhll)
  | .lsrAcc => .shiftAcc .lsr
  | .lsrZp nn => .shiftMem .lsr (.zp nn)
  | .lsrZpx nn => .shiftMem .lsr (.zpx nn)
  | .lsrAbs hhll => .shiftMem .lsr (.abs hhll)
  | .lsrAbx hhll => .shiftMem .lsr (.abx hhll)
  | .rolAcc => .shiftAcc .rol
  | .rolZp nn => .shiftMem .rol (.zp nn)
  | .rolZpx nn => .shiftMem .rol (.zpx nn)
  | .rolAbs hhll => .shiftMem .rol (.abs hhll)
  | .rolAbx hhll => .shiftMem .rol (.abx hhll)
  | .rorAcc => .shiftAcc .ror
  | .rorZp nn => .shiftMem .ror (.zp nn)
  | .rorZpx nn => .shiftMem .ror (.zpx nn)
  | .rorAbs hhll => .shiftMem .ror (.abs hhll)
  | .rorAbx hhll => .shiftMem .ror (.abx hhll)

end Sys2Proof
end

