-- ==== Sys2Proof/Config.lean ====
section
/-! DEFINITION. The values that `exec`, `step` and `State.reset` take for the parameters of
spec/00_scope.md R7. The step and the host interface under any other values take them as one argument,
`Params` of Machine/Execute.lean; `OPCODE_MAP`, the sixth parameter, is `opcodeMap` of Decode.lean. -/

namespace Sys2Proof.Config

/-- `ENTRY_ADDRESS` (R7, R191, D5): OPEN in the spec, which gives no literal and says only "mid-range".
DESIGN CHOICE (log entry 1), unsafe: 0x8000, the value the spec's test vectors assume.
`State.resetAt` takes the entry address as an argument, for statements about every value. -/
def entryAddress : Addr := 0x8000#16

/-- `SP_RESET` (R7, R192, D6): OPEN in the spec. DESIGN CHOICE (log entry 2), unsafe: 0.
`State.resetAt` takes it as an argument, for statements about every value. -/
def spReset : Addr := 0x0000#16

/-- `INIT_MEM` (R7, R40, D7): what a cell holds that neither `load` nor a store has written. OPEN and
universally quantified in the spec: a free value without a body, about which nothing can be proved
(log entry 3). -/
opaque initMem : Addr → Byte

/-- `IMM_HANDLER_CYCLE` (R7, R100, R120, D9), at the spec's default 0: whether the immediate forms of
the loads, `ADC` and `SBC` spend one more internal cycle (log entry 4). -/
def immHandlerCycle : Bool := false

/-- `RMW_EXTRA_CYCLE` (R7, R130, D10), at the spec's default 0: whether `INC` and `DEC` spend an
internal cycle between their read and their write (log entry 4). -/
def rmwExtraCycle : Bool := false

end Sys2Proof.Config
end

