-- ==== Sys2Proof/Machine/State.lean ====
section
/-! DEFINITION. The state of the machine (spec/10_state.md section 1), why a step can stop, and reset
(R190 to R195). Every field is plain data. -/

namespace Sys2Proof.Machine

/-- Memory as the cells that `load` or a store has written: addresses strictly rising and below 65536
(`Memory.wf` of Machine/Ops.lean). An unlisted address has no value of its own; what a read of it
returns is `INIT_MEM` of the address (R40, D7; log entry 3). -/
abbrev Memory := List Host.Cell

/-- The dispatcher's three states (R71). -/
inductive Dispatcher where
  | fetching | dispatching | executing
  deriving DecidableEq, Repr

/-- One cycle as the memory port sees it (R31, R32, R34, R158). -/
inductive BusOp where
  /-- `MemRead`: a read transaction and the byte it returned -/
  | read (address : Addr) (data : Byte)
  /-- `MemWrite`: a write transaction -/
  | write (address : Addr) (data : Byte)
  /-- `Idle`: a counted cycle in which the port is unused -/
  | idle
  deriving DecidableEq, Repr

/-- The architectural state (R10 to R19), in the order of the table of spec/10_state.md section 1,
then the dispatcher (R71) and the model's own record of the port (log entry 6). -/
structure State where
  /-- accumulator (R10) -/
  a : Byte
  /-- index register (R10) -/
  x : Byte
  /-- index register (R10) -/
  y : Byte
  /-- program counter: address of the next instruction byte (R13) -/
  pc : Addr
  /-- reserved field, written by reset only, read by the accessor only (R14) -/
  sp : Addr
  /-- Negative (R12) -/
  n : Bool
  /-- Overflow (R12) -/
  v : Bool
  /-- Break: inert (R12, R173) -/
  b : Bool
  /-- Decimal: inert (R12, R122) -/
  d : Bool
  /-- Interrupt-disable: inert (R12, R173) -/
  i : Bool
  /-- Zero (R12) -/
  z : Bool
  /-- Carry (R12) -/
  c : Bool
  /-- the 65536 cells (R15, R30) -/
  mem : Memory
  /-- `Cyc`, cycles of the current step, an output that no result reads (R16) -/
  cyc : Byte
  /-- the dispatcher (R71); `fetching` between steps (R18) -/
  dispatcher : Dispatcher
  /-- the model's own field: what the memory port has carried in the current step, oldest first (R158) -/
  port : List BusOp
  deriving DecidableEq, Repr

/-- Why a step stops. The spec has one condition (R170). -/
inductive Fault where
  /-- Raised by the step, and by nothing else, when the opcode byte is not mapped (R171). It carries
  the byte, and the state the spec leaves (R172), from which the host may step again (R176). Safe:
  the spec itself classes it as a fault. -/
  | unknownOpcode (byte : Byte) (after : State)
  deriving DecidableEq, Repr

/-- Why an operation is refused. -/
inductive Refusal where
  /-- Raised by `exec` for an instruction without a meaning; safe. No arm raises it. -/
  | notModelled (mnemonic : String)
  /-- Raised by the host interface for `step` before the first `reset` (R197, D19); safe. -/
  | stepBeforeReset
  /-- Raised by the host interface for a `load` past address 65535 (R153, D16); safe. -/
  | loadPastEnd (address : Addr) (count : Nat)
  deriving DecidableEq, Repr

/-- The outcome of a meaning or a step. -/
abbrev Result := Host.Outcome State Fault Refusal

/-- The state `reset` leaves, for any `ENTRY_ADDRESS`, `SP_RESET` and memory (R190 to R195): registers
and flags 0, memory as it was. `Cyc` is 0 by the spec's own choice (D20). -/
def State.resetAt (entry sp : Addr) (mem : Memory) : State where
  a := 0
  x := 0
  y := 0
  pc := entry
  sp := sp
  n := false
  v := false
  b := false
  d := false
  i := false
  z := false
  c := false
  mem := mem
  cyc := 0
  dispatcher := .fetching
  port := []

/-- The machine right after its first reset, with nothing loaded: `PC` and `SP` at the values of
Config.lean (log entries 1 and 2), memory with nothing listed (log entry 3). -/
def State.reset : State := State.resetAt Config.entryAddress Config.spReset []

end Sys2Proof.Machine
end

