-- ==== Sys2Proof/Machine/Ops.lean ====
section
/-! DEFINITION. The named operations over memory, the memory port, the registers and the one
exceptional condition: the primitives of R9. -/

namespace Sys2Proof.Machine

/-! ### Memory as data (R15, R30) -/

/-- The byte a listed address holds; no value for an address nothing has written. -/
def memGet : Memory → Nat → Option Byte
  | [], _ => none
  | (k, w) :: rest, a => if k = a then some w else memGet rest a

/-- Write one cell, keeping the addresses strictly rising. -/
def memSet : Memory → Nat → Byte → Memory
  | [], a, v => [(a, v)]
  | (k, w) :: rest, a, v =>
    if a < k then (a, v) :: (k, w) :: rest
    else if a = k then (a, v) :: rest
    else (k, w) :: memSet rest a v

/-- Addresses rise strictly from `lo` on and stay below 65536. -/
def memRisesFrom : Nat → Memory → Bool
  | _, [] => true
  | lo, (k, _) :: rest => decide (lo ≤ k) && decide (k < 65536) && memRisesFrom (k + 1) rest

/-- The canonical form. An unlisted address has no value (`memGet` answers none), so no entry can
equal what an unlisted address holds, and equal memories are equal lists (Laws/Memory.lean). -/
def Memory.wf (m : Memory) : Bool := memRisesFrom 0 m

/-- `Mem[a]` (R8, R40): the last byte written, or `INIT_MEM` of the address if none was. -/
def State.cell (s : State) (a : Addr) : Byte :=
  match memGet s.mem a.toNat with
  | some v => v
  | none => Config.initMem a

/-- `Mem[a] ← v`, without a bus operation. -/
def State.setCell (s : State) (a : Addr) (v : Byte) : State :=
  { s with mem := memSet s.mem a.toNat v }

/-- `Mem[a + i] ← bytes[i]`; address sums wrap. -/
def State.storeBytes (s : State) (a : Addr) : List Byte → State
  | [] => s
  | v :: rest => (s.setCell a v).storeBytes (a + 1) rest

/-! ### The memory port (R31 to R34, R158) -/

/-- One counted cycle, recorded on the port. -/
def tick (op : BusOp) (s : State) : State := { s with cyc := s.cyc + 1, port := s.port ++ [op] }

/-- `MemRead(addr, 1)` (R31): the byte, and the state with one more cycle. -/
def memRead (a : Addr) (s : State) : Byte × State := (s.cell a, tick (.read a (s.cell a)) s)

/-- `MemWrite(addr, 1, v)` (R32): the stored byte, and the state with the cell written and one more
cycle. -/
def memWrite (a : Addr) (v : Byte) (s : State) : Byte × State := (v, tick (.write a v) (s.setCell a v))

/-- `Idle()` (R34): a counted cycle without a bus operation. -/
def idle (s : State) : State := tick .idle s

/-- `Idle()` where a condition or a cycle parameter asks for it. -/
def idleIf (k : Bool) (s : State) : State := if k then idle s else s

/-- `Fetch()` (R33): read at `PC`, then advance `PC` by one modulo 65536. -/
def fetch (s : State) : Byte × State :=
  ((memRead s.pc s).1, { (memRead s.pc s).2 with pc := s.pc + 1 })

/-! ### Registers (R8, R10, R11) -/

/-- `reg[r]`. -/
def State.reg (s : State) : Reg → Byte
  | .a => s.a
  | .x => s.x
  | .y => s.y

/-- `reg[r] ← v`. -/
def State.setReg (s : State) (r : Reg) (v : Byte) : State :=
  match r with
  | .a => { s with a := v }
  | .x => { s with x := v }
  | .y => { s with y := v }

/-! ### The unknown opcode (R170 to R176) -/

/-- `raise UnknownOpcode(b)` (R171, R175): the report to the host. Nothing is saved and control goes
nowhere; the dispatcher goes straight back to `Fetching` (R71). There is no return from it (R176). -/
def raiseUnknownOpcode (b : Byte) (s : State) : Result :=
  .fault (.unknownOpcode b { s with dispatcher := .fetching })

end Sys2Proof.Machine
end

