-- ==== Sys2Proof/Machine/Flags.lean ====
section
/-! DEFINITION. The flag evaluator and the arithmetic of the ALU (R84, R85, R121, R141 to R144). -/

namespace Sys2Proof.Machine

/-- `UpdateNZ(v)` (R84): `Z ← (v == 0)`, `N ← v[7]`. Bit 7, not bit 8 (C1, D3). -/
def updateNZ (v : Byte) (s : State) : State := { s with n := v.msb, z := v == 0 }

/-! ### Addition (R121) -/

/-- `sum = a + m + C`, unbounded: 0 to 511. -/
def addSum (a m : Byte) (c : Bool) : Nat := a.toNat + m.toNat + c.toNat

/-- `r = sum mod 256`. -/
def addResult (a m : Byte) (c : Bool) : Byte := BitVec.ofNat 8 (addSum a m c)

/-- `C = sum > 255`. -/
def addCarry (a m : Byte) (c : Bool) : Bool := decide (addSum a m c > 255)

/-- `V = (a[7] == m[7]) and (r[7] != a[7])`. -/
def addOverflow (a m : Byte) (c : Bool) : Bool :=
  (a.msb == m.msb) && ((addResult a m c).msb != a.msb)

/-- `AddWithCarry(m)` (R121): everything is read from the old state; `D` is not read (R122). -/
def addWithCarry (m : Byte) (s : State) : State :=
  updateNZ (addResult s.a m s.c)
    { s with v := addOverflow s.a m s.c, c := addCarry s.a m s.c, a := addResult s.a m s.c }

/-! ### Steps by one (R85, R130, R133) -/

/-- `(v + d) mod 256` for a delta of +1 or -1. -/
def applyDelta (δ : Delta) (v : Byte) : Byte :=
  match δ with
  | .inc => v + 1
  | .dec => v - 1

/-! ### Shifts and rotates by one bit (R141 to R144): result and new carry -/

/-- `Op_ASL` (R141). -/
def aslOp (v : Byte) : Byte × Bool := (v <<< 1, v.getLsbD 7)

/-- `Op_LSR` (R142): no sign extension. -/
def lsrOp (v : Byte) : Byte × Bool := (v >>> 1, v.getLsbD 0)

/-- `Op_ROL` (R143): the old carry enters bit 0. -/
def rolOp (v : Byte) (cin : Bool) : Byte × Bool :=
  ((v <<< 1) ||| (BitVec.ofBool cin).zeroExtend 8, v.getLsbD 7)

/-- `Op_ROR` (R144): the old carry enters bit 7. -/
def rorOp (v : Byte) (cin : Bool) : Byte × Bool :=
  ((v >>> 1) ||| ((BitVec.ofBool cin).zeroExtend 8 <<< 7), v.getLsbD 0)

/-- The function an instruction selects (R140). -/
def applyShift (op : ShiftOp) (v : Byte) (cin : Bool) : Byte × Bool :=
  match op with
  | .asl => aslOp v
  | .lsr => lsrOp v
  | .rol => rolOp v cin
  | .ror => rorOp v cin

end Sys2Proof.Machine
end

