-- ==== Sys2Proof/Machine/Operands.lean ====
section
/-! DEFINITION. The addressing-mode resolver (R74 to R83) and the operand reads it serves. The operand
bytes themselves are fetched before `exec` (Machine/Fetch.lean); here stands what the resolver does with
them: index sums, pointer reads, internal cycles. -/

namespace Sys2Proof.Machine

/-- A zero-page address (R53, R76). -/
def zeroPage (nn : Byte) : Addr := nn.zeroExtend 16

/-- `(nn + reg) mod 256`, kept in the zero page (R39, R77). -/
def zeroPageIndexed (nn reg : Byte) : Addr := zeroPage (nn + reg)

/-- `(base + reg) mod 65536` (R38, R79). -/
def indexed (base : Addr) (reg : Byte) : Addr := base + reg.zeroExtend 16

/-- `PageCross(base, ea)` (R82): the high bytes differ. -/
def pageCross (base ea : Addr) : Bool := highByte base != highByte ea

/-- The 16-bit word at a zero-page pointer (R37 b, R39, R80, R81): two reads, low byte first, the
second address wrapping inside the zero page. The byte order is the spec's own choice (D12). -/
def readPointer (q : Byte) (s : State) : Addr × State :=
  let lo := memRead (zeroPage q) s
  let hi := memRead (zeroPage (q + 1)) lo.2
  (wordOfBytes lo.1 hi.1, hi.2)

/-- An indexed address and its page-crossing cycle (R79, R81, R82). -/
def resolveIndexed (base : Addr) (reg : Byte) (s : State) : Addr × State :=
  (indexed base reg, idleIf (pageCross base (indexed base reg)) s)

/-- `Resolve(mode)` after its operand fetches, for the modes that give an address (R76 to R81). -/
def resolve : MemOperand → State → Addr × State
  | .zp nn, s => (zeroPage nn, s)
  | .zpx nn, s => (zeroPageIndexed nn s.x, idle s)
  | .zpy nn, s => (zeroPageIndexed nn s.y, idle s)
  | .abs hhll, s => (hhll, s)
  | .abx hhll, s => resolveIndexed hhll s.x s
  | .aby hhll, s => resolveIndexed hhll s.y s
  | .izx nn, s => readPointer (nn + s.x) (idle s)
  | .izy nn, s => resolveIndexed (readPointer nn s).1 s.y (readPointer nn s).2

/-- The operand of a load or an addition in mode IMM (R75, R100, R120): the byte itself, and one more
internal cycle if `IMM_HANDLER_CYCLE` is 1. -/
def operandImm (immCycle : Bool) (v : Byte) (s : State) : Byte × State := (v, idleIf immCycle s)

/-- The operand of a load or an addition in a memory mode (R100, R120): the byte at the effective
address. -/
def operandMem (m : MemOperand) (s : State) : Byte × State := memRead (resolve m s).1 (resolve m s).2

end Sys2Proof.Machine
end

