-- ==== Sys2Proof/Machine/AddSubtract.lean ====
section
/-! DEFINITION. `ADC` and `SBC` (spec/43_add_subtract.md). -/

namespace Sys2Proof.Machine

/-- `ADC` in mode IMM (R120, R123). -/
def addImm (immCycle : Bool) (v : Byte) (s : State) : State :=
  addWithCarry (operandImm immCycle v s).1 (operandImm immCycle v s).2

/-- `ADC` in a memory mode (R120, R123). -/
def addMem (m : MemOperand) (s : State) : State := addWithCarry (operandMem m s).1 (operandMem m s).2

/-- `SBC` in mode IMM (R124): the addition of the complemented operand. -/
def subImm (immCycle : Bool) (v : Byte) (s : State) : State :=
  addWithCarry (~~~(operandImm immCycle v s).1) (operandImm immCycle v s).2

/-- `SBC` in a memory mode (R124). -/
def subMem (m : MemOperand) (s : State) : State := addWithCarry (~~~(operandMem m s).1) (operandMem m s).2

/-- `ADC #$nn` (R123). -/
def execAdcImm (v : Byte) (s : State) : Result := .next (addImm Config.immHandlerCycle v s)

/-- `ADC $nn` (R123). -/
def execAdcZp (nn : Byte) (s : State) : Result := .next (addMem (.zp nn) s)

/-- `ADC $nn,X` (R123). -/
def execAdcZpx (nn : Byte) (s : State) : Result := .next (addMem (.zpx nn) s)

/-- `ADC $hhll` (R123). -/
def execAdcAbs (hhll : Addr) (s : State) : Result := .next (addMem (.abs hhll) s)

/-- `ADC $hhll,X` (R123). -/
def execAdcAbx (hhll : Addr) (s : State) : Result := .next (addMem (.abx hhll) s)

/-- `ADC $hhll,Y` (R123). -/
def execAdcAby (hhll : Addr) (s : State) : Result := .next (addMem (.aby hhll) s)

/-- `ADC ($nn,X)` (R123). -/
def execAdcIzx (nn : Byte) (s : State) : Result := .next (addMem (.izx nn) s)

/-- `ADC ($nn),Y` (R123). -/
def execAdcIzy (nn : Byte) (s : State) : Result := .next (addMem (.izy nn) s)

/-- `SBC #$nn` (R124). -/
def execSbcImm (v : Byte) (s : State) : Result := .next (subImm Config.immHandlerCycle v s)

/-- `SBC $nn` (R124). -/
def execSbcZp (nn : Byte) (s : State) : Result := .next (subMem (.zp nn) s)

/-- `SBC $nn,X` (R124). -/
def execSbcZpx (nn : Byte) (s : State) : Result := .next (subMem (.zpx nn) s)

/-- `SBC $hhll` (R124). -/
def execSbcAbs (hhll : Addr) (s : State) : Result := .next (subMem (.abs hhll) s)

/-- `SBC $hhll,X` (R124). -/
def execSbcAbx (hhll : Addr) (s : State) : Result := .next (subMem (.abx hhll) s)

/-- `SBC $hhll,Y` (R124). -/
def execSbcAby (hhll : Addr) (s : State) : Result := .next (subMem (.aby hhll) s)

/-- `SBC ($nn,X)` (R124). -/
def execSbcIzx (nn : Byte) (s : State) : Result := .next (subMem (.izx nn) s)

/-- `SBC ($nn),Y` (R124). -/
def execSbcIzy (nn : Byte) (s : State) : Result := .next (subMem (.izy nn) s)

end Sys2Proof.Machine
end

