-- ==== Sys2Proof/Machine/IncDec.lean ====
section
/-! DEFINITION. `INC DEC INX INY DEX DEY` (spec/44_inc_dec.md). -/

namespace Sys2Proof.Machine

/-- `StepMem(d, mode)` (R130): read, compute, the internal cycle if `RMW_EXTRA_CYCLE` is 1, write back,
`UpdateNZ`. `C` and `V` are not touched. -/
def stepMem (rmwCycle : Bool) (δ : Delta) (m : MemOperand) (s : State) : State :=
  let old := operandMem m s
  let new := applyDelta δ old.1
  updateNZ new (memWrite (resolve m s).1 new (idleIf rmwCycle old.2)).2

/-- `StepReg(r, d)` (R133): no bus operation and no cycle beyond the opcode fetch (D11). -/
def stepReg (r : Reg) (δ : Delta) (s : State) : State :=
  updateNZ (applyDelta δ (s.reg r)) (s.setReg r (applyDelta δ (s.reg r)))

/-- `INC $nn` (R131). -/
def execIncZp (nn : Byte) (s : State) : Result := .next (stepMem Config.rmwExtraCycle .inc (.zp nn) s)

/-- `INC $nn,X` (R131). -/
def execIncZpx (nn : Byte) (s : State) : Result := .next (stepMem Config.rmwExtraCycle .inc (.zpx nn) s)

/-- `INC $hhll` (R131). -/
def execIncAbs (hhll : Addr) (s : State) : Result := .next (stepMem Config.rmwExtraCycle .inc (.abs hhll) s)

/-- `INC $hhll,X` (R131). -/
def execIncAbx (hhll : Addr) (s : State) : Result := .next (stepMem Config.rmwExtraCycle .inc (.abx hhll) s)

/-- `DEC $nn` (R132). -/
def execDecZp (nn : Byte) (s : State) : Result := .next (stepMem Config.rmwExtraCycle .dec (.zp nn) s)

/-- `DEC $nn,X` (R132). -/
def execDecZpx (nn : Byte) (s : State) : Result := .next (stepMem Config.rmwExtraCycle .dec (.zpx nn) s)

/-- `DEC $hhll` (R132). -/
def execDecAbs (hhll : Addr) (s : State) : Result := .next (stepMem Config.rmwExtraCycle .dec (.abs hhll) s)

/-- `DEC $hhll,X` (R132). -/
def execDecAbx (hhll : Addr) (s : State) : Result := .next (stepMem Config.rmwExtraCycle .dec (.abx hhll) s)

/-- `INX` (R134). -/
def execInx (s : State) : Result := .next (stepReg .x .inc s)

/-- `INY` (R135). -/
def execIny (s : State) : Result := .next (stepReg .y .inc s)

/-- `DEX` (R136). -/
def execDex (s : State) : Result := .next (stepReg .x .dec s)

/-- `DEY` (R137). -/
def execDey (s : State) : Result := .next (stepReg .y .dec s)

end Sys2Proof.Machine
end

