-- ==== Sys2Proof/Machine/Load.lean ====
section
/-! DEFINITION. The loads `LDA LDX LDY` (spec/41_load.md). -/

namespace Sys2Proof.Machine

/-- The end of the load handler (R100): `reg[r] ← m; UpdateNZ(m)`. -/
def loadReg (r : Reg) (m : Byte) (s : State) : State := updateNZ m (s.setReg r m)

/-- `Load(r, IMM)` (R100). -/
def loadImm (immCycle : Bool) (r : Reg) (v : Byte) (s : State) : State :=
  loadReg r (operandImm immCycle v s).1 (operandImm immCycle v s).2

/-- `Load(r, mode)` for a memory mode (R100). -/
def loadMem (r : Reg) (m : MemOperand) (s : State) : State :=
  loadReg r (operandMem m s).1 (operandMem m s).2

/-- `LDA #$nn` (R101). -/
def execLdaImm (v : Byte) (s : State) : Result := .next (loadImm Config.immHandlerCycle .a v s)

/-- `LDA $nn` (R101). -/
def execLdaZp (nn : Byte) (s : State) : Result := .next (loadMem .a (.zp nn) s)

/-- `LDA $nn,X` (R101). -/
def execLdaZpx (nn : Byte) (s : State) : Result := .next (loadMem .a (.zpx nn) s)

/-- `LDA $hhll` (R101). -/
def execLdaAbs (hhll : Addr) (s : State) : Result := .next (loadMem .a (.abs hhll) s)

/-- `LDA $hhll,X` (R101). -/
def execLdaAbx (hhll : Addr) (s : State) : Result := .next (loadMem .a (.abx hhll) s)

/-- `LDA $hhll,Y` (R101). -/
def execLdaAby (hhll : Addr) (s : State) : Result := .next (loadMem .a (.aby hhll) s)

/-- `LDA ($nn,X)` (R101). -/
def execLdaIzx (nn : Byte) (s : State) : Result := .next (loadMem .a (.izx nn) s)

/-- `LDA ($nn),Y` (R101). -/
def execLdaIzy (nn : Byte) (s : State) : Result := .next (loadMem .a (.izy nn) s)

/-- `LDX #$nn` (R102). -/
def execLdxImm (v : Byte) (s : State) : Result := .next (loadImm Config.immHandlerCycle .x v s)

/-- `LDX $nn` (R102). -/
def execLdxZp (nn : Byte) (s : State) : Result := .next (loadMem .x (.zp nn) s)

/-- `LDX $nn,Y` (R102). -/
def execLdxZpy (nn : Byte) (s : State) : Result := .next (loadMem .x (.zpy nn) s)

/-- `LDX $hhll` (R102). -/
def execLdxAbs (hhll : Addr) (s : State) : Result := .next (loadMem .x (.abs hhll) s)

/-- `LDX $hhll,Y` (R102). -/
def execLdxAby (hhll : Addr) (s : State) : Result := .next (loadMem .x (.aby hhll) s)

/-- `LDY #$nn` (R103). -/
def execLdyImm (v : Byte) (s : State) : Result := .next (loadImm Config.immHandlerCycle .y v s)

/-- `LDY $nn` (R103). -/
def execLdyZp (nn : Byte) (s : State) : Result := .next (loadMem .y (.zp nn) s)

/-- `LDY $nn,X` (R103). -/
def execLdyZpx (nn : Byte) (s : State) : Result := .next (loadMem .y (.zpx nn) s)

/-- `LDY $hhll` (R103). -/
def execLdyAbs (hhll : Addr) (s : State) : Result := .next (loadMem .y (.abs hhll) s)

/-- `LDY $hhll,X` (R103). -/
def execLdyAbx (hhll : Addr) (s : State) : Result := .next (loadMem .y (.abx hhll) s)

end Sys2Proof.Machine
end

