-- ==== Sys2Proof/Machine/ShiftRotate.lean ====
section
/-! DEFINITION. `ASL LSR ROL ROR` (spec/45_shift_rotate.md). -/

namespace Sys2Proof.Machine

/-- The flags of a shift (R140): `C ← c; UpdateNZ(r)`. -/
def shiftFlags (out : Byte × Bool) (s : State) : State := updateNZ out.1 { s with c := out.2 }

/-- `ShiftRotate(Op, ACC)` (R140): the handler's internal cycle, the flags, then `A`. -/
def shiftAcc (op : ShiftOp) (s : State) : State :=
  { shiftFlags (applyShift op s.a s.c) (idle s) with a := (applyShift op s.a s.c).1 }

/-- `ShiftRotate(Op, mode)` for a memory mode (R140): read, compute, internal cycle, flags, write back. -/
def shiftMem (op : ShiftOp) (m : MemOperand) (s : State) : State :=
  let old := operandMem m s
  let out := applyShift op old.1 s.c
  (memWrite (resolve m s).1 out.1 (shiftFlags out (idle old.2))).2

/-- `ASL A` (R141). -/
def execAslAcc (s : State) : Result := .next (shiftAcc .asl s)

/-- `ASL $nn` (R141). -/
def execAslZp (nn : Byte) (s : State) : Result := .next (shiftMem .asl (.zp nn) s)

/-- `ASL $nn,X` (R141). -/
def execAslZpx (nn : Byte) (s : State) : Result := .next (shiftMem .asl (.zpx nn) s)

/-- `ASL $hhll` (R141). -/
def execAslAbs (hhll : Addr) (s : State) : Result := .next (shiftMem .asl (.abs hhll) s)

/-- `ASL $hhll,X` (R141). -/
def execAslAbx (hhll : Addr) (s : State) : Result := .next (shiftMem .asl (.abx hhll) s)

/-- `LSR A` (R142). -/
def execLsrAcc (s : State) : Result := .next (shiftAcc .lsr s)

/-- `LSR $nn` (R142). -/
def execLsrZp (nn : Byte) (s : State) : Result := .next (shiftMem .lsr (.zp nn) s)

/-- `LSR $nn,X` (R142). -/
def execLsrZpx (nn : Byte) (s : State) : Result := .next (shiftMem .lsr (.zpx nn) s)

/-- `LSR $hhll` (R142). -/
def execLsrAbs (hhll : Addr) (s : State) : Result := .next (shiftMem .lsr (.abs hhll) s)

/-- `LSR $hhll,X` (R142). -/
def execLsrAbx (hhll : Addr) (s : State) : Result := .next (shiftMem .lsr (.abx hhll) s)

/-- `ROL A` (R143). -/
def execRolAcc (s : State) : Result := .next (shiftAcc .rol s)

/-- `ROL $nn` (R143). -/
def execRolZp (nn : Byte) (s : State) : Result := .next (shiftMem .rol (.zp nn) s)

/-- `ROL $nn,X` (R143). -/
def execRolZpx (nn : Byte) (s : State) : Result := .next (shiftMem .rol (.zpx nn) s)

/-- `ROL $hhll` (R143). -/
def execRolAbs (hhll : Addr) (s : State) : Result := .next (shiftMem .rol (.abs hhll) s)

/-- `ROL $hhll,X` (R143). -/
def execRolAbx (hhll : Addr) (s : State) : Result := .next (shiftMem .rol (.abx hhll) s)

/-- `ROR A` (R144). -/
def execRorAcc (s : State) : Result := .next (shiftAcc .ror s)

/-- `ROR $nn` (R144). -/
def execRorZp (nn : Byte) (s : State) : Result := .next (shiftMem .ror (.zp nn) s)

/-- `ROR $nn,X` (R144). -/
def execRorZpx (nn : Byte) (s : State) : Result := .next (shiftMem .ror (.zpx nn) s)

/-- `ROR $hhll` (R144). -/
def execRorAbs (hhll : Addr) (s : State) : Result := .next (shiftMem .ror (.abs hhll) s)

/-- `ROR $hhll,X` (R144). -/
def execRorAbx (hhll : Addr) (s : State) : Result := .next (shiftMem .ror (.abx hhll) s)

end Sys2Proof.Machine
end

