-- ==== Sys2Proof/Machine/Store.lean ====
section
/-! DEFINITION. The stores `STA STX STY` (spec/42_store.md). -/

namespace Sys2Proof.Machine

/-- `Store(r, mode)` (R110): one write of the whole register, no flag, no read of the destination. -/
def store (r : Reg) (m : MemOperand) (s : State) : State :=
  (memWrite (resolve m s).1 (s.reg r) (resolve m s).2).2

/-- `STA $nn` (R111). -/
def execStaZp (nn : Byte) (s : State) : Result := .next (store .a (.zp nn) s)

/-- `STA $nn,X` (R111). -/
def execStaZpx (nn : Byte) (s : State) : Result := .next (store .a (.zpx nn) s)

/-- `STA $hhll` (R111). -/
def execStaAbs (hhll : Addr) (s : State) : Result := .next (store .a (.abs hhll) s)

/-- `STA $hhll,X` (R111). -/
def execStaAbx (hhll : Addr) (s : State) : Result := .next (store .a (.abx hhll) s)

/-- `STA $hhll,Y` (R111). -/
def execStaAby (hhll : Addr) (s : State) : Result := .next (store .a (.aby hhll) s)

/-- `STA ($nn,X)` (R111). -/
def execStaIzx (nn : Byte) (s : State) : Result := .next (store .a (.izx nn) s)

/-- `STA ($nn),Y` (R111). -/
def execStaIzy (nn : Byte) (s : State) : Result := .next (store .a (.izy nn) s)

/-- `STX $nn` (R112). -/
def execStxZp (nn : Byte) (s : State) : Result := .next (store .x (.zp nn) s)

/-- `STX $nn,Y` (R112). -/
def execStxZpy (nn : Byte) (s : State) : Result := .next (store .x (.zpy nn) s)

/-- `STX $hhll` (R112). -/
def execStxAbs (hhll : Addr) (s : State) : Result := .next (store .x (.abs hhll) s)

/-- `STY $nn` (R113). -/
def execStyZp (nn : Byte) (s : State) : Result := .next (store .y (.zp nn) s)

/-- `STY $nn,X` (R113). -/
def execStyZpx (nn : Byte) (s : State) : Result := .next (store .y (.zpx nn) s)

/-- `STY $hhll` (R113). -/
def execStyAbs (hhll : Addr) (s : State) : Result := .next (store .y (.abs hhll) s)

end Sys2Proof.Machine
end

