-- ==== Sys2Proof/Machine/Dispatch.lean ====
section
/-! DEFINITION. `Execute(instr, mode)` of R70: one arm per instruction, each one call of its meaning.
The state it is given has the opcode and operand bytes already fetched (Machine/Fetch.lean). -/

namespace Sys2Proof.Machine

def exec (i : Instr) (s : State) : Host.Outcome State Fault Refusal :=
  match i with
  -- load (spec/41_load.md)
  | .ldaImm v => Sys2Proof.Machine.execLdaImm v s
  | .ldaZp nn => Sys2Proof.Machine.execLdaZp nn s
  | .ldaZpx nn => Sys2Proof.Machine.execLdaZpx nn s
  | .ldaAbs hhll => Sys2Proof.Machine.execLdaAbs hhll s
  | .ldaAbx hhll => Sys2Proof.Machine.execLdaAbx hhll s
  | .ldaAby hhll => Sys2Proof.Machine.execLdaAby hhll s
  | .ldaIzx nn => Sys2Proof.Machine.execLdaIzx nn s
  | .ldaIzy nn => Sys2Proof.Machine.execLdaIzy nn s
  | .ldxImm v => Sys2Proof.Machine.execLdxImm v s
  | .ldxZp nn => Sys2Proof.Machine.execLdxZp nn s
  | .ldxZpy nn => Sys2Proof.Machine.execLdxZpy nn s
  | .ldxAbs hhll => Sys2Proof.Machine.execLdxAbs hhll s
  | .ldxAby hhll => Sys2Proof.Machine.execLdxAby hhll s
  | .ldyImm v => Sys2Proof.Machine.execLdyImm v s
  | .ldyZp nn => Sys2Proof.Machine.execLdyZp nn s
  | .ldyZpx nn => Sys2Proof.Machine.execLdyZpx nn s
  | .ldyAbs hhll => Sys2Proof.Machine.execLdyAbs hhll s
  | .ldyAbx hhll => Sys2Proof.Machine.execLdyAbx hhll s
  -- store (spec/42_store.md)
  | .staZp nn => Sys2Proof.Machine.execStaZp nn s
  | .staZpx nn => Sys2Proof.Machine.execStaZpx nn s
  | .staAbs hhll => Sys2Proof.Machine.execStaAbs hhll s
  | .staAbx hhll => Sys2Proof.Machine.execStaAbx hhll s
  | .staAby hhll => Sys2Proof.Machine.execStaAby hhll s
  | .staIzx nn => Sys2Proof.Machine.execStaIzx nn s
  | .staIzy nn => Sys2Proof.Machine.execStaIzy nn s
  | .stxZp nn => Sys2Proof.Machine.execStxZp nn s
  | .stxZpy nn => Sys2Proof.Machine.execStxZpy nn s
  | .stxAbs hhll => Sys2Proof.Machine.execStxAbs hhll s
  | .styZp nn => Sys2Proof.Machine.execStyZp nn s
  | .styZpx nn => Sys2Proof.Machine.execStyZpx nn s
  | .styAbs hhll => Sys2Proof.Machine.execStyAbs hhll s
  -- add and subtract (spec/43_add_subtract.md)
  | .adcImm v => Sys2Proof.Machine.execAdcImm v s
  | .adcZp nn => Sys2Proof.Machine.execAdcZp nn s
  | .adcZpx nn => Sys2Proof.Machine.execAdcZpx nn s
  | .adcAbs hhll => Sys2Proof.Machine.execAdcAbs hhll s
  | .adcAbx hhll => Sys2Proof.Machine.execAdcAbx hhll s
  | .adcAby hhll => Sys2Proof.Machine.execAdcAby hhll s
  | .adcIzx nn => Sys2Proof.Machine.execAdcIzx nn s
  | .adcIzy nn => Sys2Proof.Machine.execAdcIzy nn s
  | .sbcImm v => Sys2Proof.Machine.execSbcImm v s
  | .sbcZp nn => Sys2Proof.Machine.execSbcZp nn s
  | .sbcZpx nn => Sys2Proof.Machine.execSbcZpx nn s
  | .sbcAbs hhll => Sys2Proof.Machine.execSbcAbs hhll s
  | .sbcAbx hhll => Sys2Proof.Machine.execSbcAbx hhll s
  | .sbcAby hhll => Sys2Proof.Machine.execSbcAby hhll s
  | .sbcIzx nn => Sys2Proof.Machine.execSbcIzx nn s
  | .sbcIzy nn => Sys2Proof.Machine.execSbcIzy nn s
  -- increment and decrement (spec/44_inc_dec.md)
  | .incZp nn => Sys2Proof.Machine.execIncZp nn s
  | .incZpx nn => Sys2Proof.Machine.execIncZpx nn s
  | .incAbs hhll => Sys2Proof.Machine.execIncAbs hhll s
  | .incAbx hhll => Sys2Proof.Machine.execIncAbx hhll s
  | .decZp nn => Sys2Proof.Machine.execDecZp nn s
  | .decZpx nn => Sys2Proof.Machine.execDecZpx nn s
  | .decAbs hhll => Sys2Proof.Machine.execDecAbs hhll s
  | .decAbx hhll => Sys2Proof.Machine.execDecAbx hhll s
  | .inx => Sys2Proof.Machine.execInx s
  | .iny => Sys2Proof.Machine.execIny s
  | .dex => Sys2Proof.Machine.execDex s
  | .dey => Sys2Proof.Machine.execDey s
  -- shift and rotate (spec/45_shift_rotate.md)
  | .aslAcc => Sys2Proof.Machine.execAslAcc s
  | .aslZp nn => Sys2Proof.Machine.execAslZp nn s
  | .aslZpx nn => Sys2Proof.Machine.execAslZpx nn s
  | .aslAbs hhll => Sys2Proof.Machine.execAslAbs hhll s
  | .aslAbx hhll => Sys2Proof.Machine.execAslAbx hhll s
  | .lsrAcc => Sys2Proof.Machine.execLsrAcc s
  | .lsrZp nn => Sys2Proof.Machine.execLsrZp nn s
  | .lsrZpx nn => Sys2Proof.Machine.execLsrZpx nn s
  | .lsrAbs hhll => Sys2Proof.Machine.execLsrAbs hhll s
  | .lsrAbx hhll => Sys2Proof.Machine.execLsrAbx hhll s
  | .rolAcc => Sys2Proof.Machine.execRolAcc s
  | .rolZp nn => Sys2Proof.Machine.execRolZp nn s
  | .rolZpx nn => Sys2Proof.Machine.execRolZpx nn s
  | .rolAbs hhll => Sys2Proof.Machine.execRolAbs hhll s
  | .rolAbx hhll => Sys2Proof.Machine.execRolAbx hhll s
  | .rorAcc => Sys2Proof.Machine.execRorAcc s
  | .rorZp nn => Sys2Proof.Machine.execRorZp nn s
  | .rorZpx nn => Sys2Proof.Machine.execRorZpx nn s
  | .rorAbs hhll => Sys2Proof.Machine.execRorAbs hhll s
  | .rorAbx hhll => Sys2Proof.Machine.execRorAbx hhll s

end Sys2Proof.Machine
end

