-- ==== Sys2Proof/Machine/Execute.lean ====
section
/-! DEFINITION. The parameters of R7 as one argument of the model, and `Execute(instr, mode)` under any of
them. `exec` of Machine/Dispatch.lean is this at `Params.default`, for the 79 instructions of the default
map. -/

namespace Sys2Proof.Machine

/-- The parameters of R7. The sixth, `INIT_MEM`, is the free function `Config.initMem` (log entry 3). -/
structure Params where
  /-- `ENTRY_ADDRESS` (D5) -/
  entryAddress    : Addr
  /-- `SP_RESET` (D6) -/
  spReset         : Addr
  /-- `OPCODE_MAP` (D1, D2) -/
  opcodeMap       : OpcodeMap
  /-- `IMM_HANDLER_CYCLE` (D9) -/
  immHandlerCycle : Bool
  /-- `RMW_EXTRA_CYCLE` (D10) -/
  rmwExtraCycle   : Bool

/-- The values of Config.lean and the default map (log entries 1, 2, 4, 5). -/
def Params.default : Params where
  entryAddress := Config.entryAddress
  spReset := Config.spReset
  opcodeMap := Sys2Proof.opcodeMap
  immHandlerCycle := Config.immHandlerCycle
  rmwExtraCycle := Config.rmwExtraCycle

/-- The handler the decode stage selects (R54, R70), under the two cycle parameters. -/
def execute (p : Params) (c : Control) (s : State) : State :=
  match c with
  | .loadImm r v => loadImm p.immHandlerCycle r v s
  | .loadMem r m => loadMem r m s
  | .store r m => store r m s
  | .addImm v => addImm p.immHandlerCycle v s
  | .addMem m => addMem m s
  | .subImm v => subImm p.immHandlerCycle v s
  | .subMem m => subMem m s
  | .stepMem δ m => stepMem p.rmwExtraCycle δ m s
  | .stepReg r δ => stepReg r δ s
  | .shiftAcc op => shiftAcc op s
  | .shiftMem op m => shiftMem op m s

end Sys2Proof.Machine
end

