-- ==== Sys2Proof/Machine/Fetch.lean ====
section
/-! DEFINITION. The part of a step before and after `Execute` (R70, R71): clear the cycle counter, fetch
the opcode byte, look it up, fetch the operand bytes its format has, and hand back to `Fetching`. -/

namespace Sys2Proof.Machine

/-- What the decode stage found at `PC`. -/
inductive Fetched (ι : Type) where
  | known (i : ι)
  | unknown (b : Byte)
  deriving DecidableEq, Repr

/-- The start of a step (R16, R70, R71): `Cyc ← 0`, dispatcher in `Fetching`, nothing on the port yet. -/
def beginStep (s : State) : State := { s with cyc := 0, dispatcher := .fetching, port := [] }

/-- The dispatcher moves on (R71). -/
def enter (d : Dispatcher) (s : State) : State := { s with dispatcher := d }

/-- The resolver's operand fetches (R75 to R81, R83): none, one, or two, the low byte first. -/
def fetchOperands {ι : Type} (f : Format ι) (s : State) : ι × State :=
  match f with
  | .f1 i => (i, s)
  | .f2 build => (build (fetch s).1, (fetch s).2)
  | .f3 build => (build (wordOfBytes (fetch s).1 (fetch (fetch s).2).1), (fetch (fetch s).2).2)

/-- Opcode fetch, decode, operand fetches (R54, R70, R71). On an unknown opcode no operand byte is
fetched (R171). -/
def fetchInstr {ι : Type} (map : FormatMap ι) (s : State) : Fetched ι × State :=
  match map (fetch s).1 with
  | none => (.unknown (fetch s).1, enter .dispatching (fetch s).2)
  | some f =>
    (.known (fetchOperands f (enter .executing (fetch s).2)).1,
      (fetchOperands f (enter .executing (fetch s).2)).2)

/-- The end of a step (R71): back to `Fetching`. -/
def endStep : Result → Result
  | .next t => .next { t with dispatcher := .fetching }
  | .fault r => .fault r
  | .refused r => .refused r

end Sys2Proof.Machine
end

