-- ==== Sys2Proof/Machine/Step.lean ====
section
/-! DEFINITION. One step (R70), and how an instruction is placed for the next fetch. -/

namespace Sys2Proof.Machine

/-- `Step()` (R70), for a decode stage and an `Execute` for what it answers. -/
def stepOf {ι : Type} (map : FormatMap ι) (run : ι → State → Result) (s : State) : Result :=
  match (fetchInstr map (beginStep s)).1 with
  | .unknown b => raiseUnknownOpcode b (fetchInstr map (beginStep s)).2
  | .known i => endStep (run i (fetchInstr map (beginStep s)).2)

/-- `Step()` under any parameters (R7). -/
def stepWith (p : Params) (s : State) : Result :=
  stepOf (controlFormat p.opcodeMap) (fun c t => .next (execute p c t)) s

/-- `Step()` under the default parameters: the decoder of the 79 instructions (R56), then `exec`. -/
def step (s : State) : Host.Outcome State Fault Refusal := stepOf instrFormat exec s

/-- `s` with a table word's bytes stored at `PC`, where `step` fetches its next instruction (R50, R70):
what the host's `load` does at that address (R153; log entry 7). -/
def State.withFetchWord (s : State) (nbits w : Nat) : State := s.storeBytes s.pc (tableBytes nbits w)

end Sys2Proof.Machine
end

