-- ==== Sys2Proof/Machine/BusTable.lean ====
section
/-! DEFINITION. The spec's two tables about what a step does on the memory port (R158) and how many
cycles it counts (R199), written down as the tables stand. `exec` and `step` do not use them: statements
hold the machine against them. -/

namespace Sys2Proof.Machine

/-- The state after the given cycles: `Cyc` counts them, the port records them, nothing else changes. -/
def afterOps (ops : List BusOp) (s : State) : State :=
  { s with cyc := s.cyc + BitVec.ofNat 8 ops.length, port := s.port ++ ops }

/-! ### Addressing part (R52, R158) -/

/-- The word at the zero-page pointer `q`: low cell, then the next cell of the zero page. -/
def pointerWord (q : Byte) (s : State) : Addr :=
  wordOfBytes (s.cell (zeroPage q)) (s.cell (zeroPage (q + 1)))

/-- The column "effective address `ea`" of R158. -/
def effectiveAddress : MemOperand → State → Addr
  | .zp nn, _ => zeroPage nn
  | .zpx nn, s => zeroPage (nn + s.x)
  | .zpy nn, s => zeroPage (nn + s.y)
  | .abs hhll, _ => hhll
  | .abx hhll, s => indexed hhll s.x
  | .aby hhll, s => indexed hhll s.y
  | .izx nn, s => pointerWord (nn + s.x) s
  | .izy nn, s => indexed (pointerWord nn s) s.y

/-- Whether the mode pays the page-crossing cycle (R82): ABX, ABY and IZY only. -/
def crosses : MemOperand → State → Bool
  | .abx hhll, s => pageCross hhll (indexed hhll s.x)
  | .aby hhll, s => pageCross hhll (indexed hhll s.y)
  | .izy nn, s => pageCross (pointerWord nn s) (indexed (pointerWord nn s) s.y)
  | .zp _, _ | .zpx _, _ | .zpy _, _ | .abs _, _ | .izx _, _ => false

/-- An internal cycle under a condition. -/
def idleOps (k : Bool) : List BusOp := if k then [.idle] else []

/-- The two pointer reads of IZX and IZY. -/
def pointerOps (q : Byte) (s : State) : List BusOp :=
  [.read (zeroPage q) (s.cell (zeroPage q)), .read (zeroPage (q + 1)) (s.cell (zeroPage (q + 1)))]

/-- The column "operations of the resolver" of R158, after the operand fetches. -/
def resolverOps : MemOperand → State → List BusOp
  | .zp _, _ | .abs _, _ => []
  | .zpx _, _ | .zpy _, _ => [.idle]
  | .abx hhll, s => idleOps (crosses (.abx hhll) s)
  | .aby hhll, s => idleOps (crosses (.aby hhll) s)
  | .izx nn, s => .idle :: pointerOps (nn + s.x) s
  | .izy nn, s => pointerOps nn s ++ idleOps (crosses (.izy nn) s)

/-! ### Handler part (R158) -/

/-- The read of the operand or target. -/
def readOp (m : MemOperand) (s : State) : BusOp :=
  .read (effectiveAddress m s) (s.cell (effectiveAddress m s))

/-- Resolver and handler operations of an instruction, after its own bytes are fetched. -/
def execOps (p : Params) : Control → State → List BusOp
  | .loadImm _ _, _ | .addImm _, _ | .subImm _, _ => idleOps p.immHandlerCycle
  | .loadMem _ m, s | .addMem m, s | .subMem m, s => resolverOps m s ++ [readOp m s]
  | .store r m, s => resolverOps m s ++ [.write (effectiveAddress m s) (s.reg r)]
  | .stepMem δ m, s => resolverOps m s ++ readOp m s :: idleOps p.rmwExtraCycle ++
      [.write (effectiveAddress m s) (applyDelta δ (s.cell (effectiveAddress m s)))]
  | .stepReg _ _, _ => []
  | .shiftAcc _, _ => [.idle]
  | .shiftMem op m, s => resolverOps m s ++ [readOp m s, .idle,
      .write (effectiveAddress m s) (applyShift op (s.cell (effectiveAddress m s)) s.c).1]

/-- The reads of the instruction's own bytes at `p`, `p+1`, `p+2` (R51, R158). -/
def fetchOps (k : Nat) (p : Addr) (s : State) : List BusOp :=
  match k with
  | 0 => []
  | n + 1 => .read p (s.cell p) :: fetchOps n (p + 1) s

/-! ### Cycle counts (R199) -/

/-- The memory operand an instruction hands to the resolver, if its mode has one (R52, R74). -/
def memOperandOf : Control → Option MemOperand
  | .loadMem _ m | .store _ m | .addMem m | .subMem m | .stepMem _ m | .shiftMem _ m => some m
  | .loadImm _ _ | .addImm _ | .subImm _ | .stepReg _ _ | .shiftAcc _ => none

/-- `addr(mode)` of R199. -/
def addrCycles : Mode → Nat
  | .imp | .acc => 0
  | .imm | .zp => 1
  | .zpx | .zpy => 2
  | .abs | .abx | .aby => 2
  | .izx => 4
  | .izy => 3

/-- `cross` of R199. -/
def crossCycle (c : Control) (s : State) : Nat :=
  match memOperandOf c with
  | some m => (crosses m s).toNat
  | none => 0

/-- `handler(family, mode)` of R199. -/
def handlerCycles (p : Params) (mn : Mnemonic) (md : Mode) : Nat :=
  match mn with
  | .lda | .ldx | .ldy | .adc | .sbc => if md = .imm then p.immHandlerCycle.toNat else 1
  | .sta | .stx | .sty => 1
  | .inc | .dec => 2 + p.rmwExtraCycle.toNat
  | .inx | .iny | .dex | .dey => 0
  | .asl | .lsr | .rol | .ror => if md = .acc then 1 else 3

/-- `cycles` of R199 for a known opcode: its instruction, its mode, and what the handlers receive. -/
def cycleCount (p : Params) (mn : Mnemonic) (md : Mode) (c : Control) (s : State) : Nat :=
  1 + addrCycles md + crossCycle c s + handlerCycles p mn md

end Sys2Proof.Machine
end

