-- ==== Sys2Proof/Machine/HostInterface.lean ====
section
/-! DEFINITION. The host interface at the level of transactions (R150 to R157, R194, R197): `reset`,
`load`, `step`, and the read-only accessors, under any parameters (R7). The host acts only between steps
(R157, D26). -/

namespace Sys2Proof.Machine

/-- The block as the host holds it. Until the first `reset` the registers hold no defined value (R197):
`core` is then any state at all, and only its memory means something (R196). -/
structure Block where
  core      : State
  resetDone : Bool
  deriving DecidableEq, Repr

/-- What the accessors show (R156): every register and flag, and `Cyc`. -/
structure Observation where
  a   : Byte
  x   : Byte
  y   : Byte
  pc  : Addr
  sp  : Addr
  n   : Bool
  v   : Bool
  b   : Bool
  d   : Bool
  i   : Bool
  z   : Bool
  c   : Bool
  cyc : Byte
  deriving DecidableEq, Repr

/-- The accessors of R156. -/
def State.observe (s : State) : Observation :=
  ⟨s.a, s.x, s.y, s.pc, s.sp, s.n, s.v, s.b, s.d, s.i, s.z, s.c, s.cyc⟩

/-- The host's transactions (R150, R151). Reading a cell is the spec's own addition (D15). -/
inductive Transaction where
  | reset
  | load (address : Addr) (bytes : List Byte)
  | step
  | observe
  | readCell (address : Addr)
  deriving DecidableEq, Repr

/-- What answers a transaction (R150, R155). -/
inductive Response where
  | completed
  | done (cycles : Byte)
  | unknownOpcode (byte : Byte)
  | observed (o : Observation)
  | cell (v : Byte)
  | refused (why : Refusal)
  deriving DecidableEq, Repr

/-- `reset` at any time between steps (R152, R190 to R195, R197): memory stays. -/
def hostReset (p : Params) (k : Block) : Response × Block :=
  (.completed, ⟨State.resetAt p.entryAddress p.spReset k.core.mem, true⟩)

/-- `load` (R153), refused as a whole where its bytes would run past address 65535 (D16). -/
def hostLoad (address : Addr) (bytes : List Byte) (k : Block) : Response × Block :=
  if address.toNat + bytes.length ≤ 65536 then
    (.completed, { k with core := k.core.storeBytes address bytes })
  else (.refused (.loadPastEnd address bytes.length), k)

/-- `step` (R154, R155), refused before the first `reset` (R197, D19). After `UnknownOpcode` the block
holds the state of R172, so that the next `step` is the host's "skip" (R176). -/
def hostStep (p : Params) (k : Block) : Response × Block :=
  if k.resetDone then
    match stepWith p k.core with
    | .next t => (.done t.cyc, { k with core := t })
    | .fault (.unknownOpcode byte after) => (.unknownOpcode byte, { k with core := after })
    | .refused why => (.refused why, k)
  else (.refused .stepBeforeReset, k)

/-- One transaction (R150, R151) with a block that has the parameters `p` (R7). -/
def transact (p : Params) : Transaction → Block → Response × Block
  | .reset, k => hostReset p k
  | .load address bytes, k => hostLoad address bytes k
  | .step, k => hostStep p k
  | .observe, k => (.observed k.core.observe, k)
  | .readCell address, k => (.cell (k.core.cell address), k)

end Sys2Proof.Machine
end

