-- ==== Sys2Proof/Safety.lean ====
section
/-! DEFINITION. What a safe run is, and when a run ends (R172, spec/92_eei_decisions.md D17): the machine
never stops of itself (R71), so the end is the host's predicate, and the one way a step goes wrong is
`UnknownOpcode`. -/

namespace Sys2Proof.Safety

open Sys2Proof.Machine

/-- The step reports no `UnknownOpcode`. -/
def SafeStep (s : State) : Prop := ∃ t, step s = .next t

/-- The run of exactly `n` steps from `s` is safe and ends in `t` (D17, "after exactly n steps"). -/
def EndsAfter (n : Nat) (s t : State) : Prop := Sys2Proof.core.run n s = .next t

/-- The run is safe and ends the first time `PC` is `stop` between steps (D17, `STOP_PC`). -/
def EndsAtPc (stop : Addr) (n : Nat) (s t : State) : Prop :=
  EndsAfter n s t ∧ t.pc = stop ∧ ∀ k < n, ∀ u, EndsAfter k s u → u.pc ≠ stop

/-- The run ends at its first `UnknownOpcode` report, of `byte`, after `n` safe steps (D17). -/
def EndsAtUnknown (byte : Byte) (n : Nat) (s t : State) : Prop :=
  ∃ u, EndsAfter n s u ∧ step u = .fault (.unknownOpcode byte t)

end Sys2Proof.Safety
end

