-- ==== Sys2Proof/WellFormed.lean ====
section
/-! DEFINITION. Well-formedness of an instruction as an assembler writes it (R55, R59): a mnemonic, a
mode and a number. Two checks: the (mnemonic, mode) pair exists, and the operand fits the format.
The constructors of `Instr` are typed so that every one of them passes both (Laws/PerInstr.lean, `Legal`). -/

namespace Sys2Proof

/-- The modes each mnemonic has: the filled cells of the matrix of R55, row by row. -/
def Mnemonic.modes : Mnemonic → List Mode
  | .lda => [.imm, .zp, .zpx, .abs, .abx, .aby, .izx, .izy]
  | .ldx => [.imm, .zp, .zpy, .abs, .aby]
  | .ldy => [.imm, .zp, .zpx, .abs, .abx]
  | .sta => [.zp, .zpx, .abs, .abx, .aby, .izx, .izy]
  | .stx => [.zp, .zpy, .abs]
  | .sty => [.zp, .zpx, .abs]
  | .adc | .sbc => [.imm, .zp, .zpx, .abs, .abx, .aby, .izx, .izy]
  | .inc | .dec => [.zp, .zpx, .abs, .abx]
  | .inx | .iny | .dex | .dey => [.imp]
  | .asl | .lsr | .rol | .ror => [.acc, .zp, .zpx, .abs, .abx]

/-- An instruction before any check: any mnemonic with any mode and any number. -/
structure Form where
  mnemonic : Mnemonic
  mode     : Mode
  operand  : Nat
  deriving DecidableEq, Repr

/-- Check 1: the pair is a filled cell of the matrix (R55). -/
def Form.pairExists (f : Form) : Bool := f.mnemonic.modes.contains f.mode

/-- Check 2: the operand has the width of the mode's operand bytes, and is 0 where there are none
(R51, R53). Every value of that width is legal (R58). -/
def Form.operandFits (f : Form) : Bool := decide (f.operand < 2 ^ (8 * f.mode.operandBytes))

/-- Both checks. -/
def Form.wf (f : Form) : Bool := f.pairExists && f.operandFits

/-- An instruction as the assembler writes it. -/
def Instr.form (i : Instr) : Form := ⟨i.mnemonic, i.mode, i.operand⟩

/-- Well-formedness of an instruction. -/
def Instr.wf (i : Instr) : Bool := i.form.wf

end Sys2Proof
end

