-- ==== Sys2Proof/Certificates/Slice0/Obligations.lean ====
section
/-! DEFINITION. The statements. Each docstring names the rules it formalises and says where it rests on a
choice that the spec marks as its own (D<n> of spec/92_eei_decisions.md) or on a log entry. -/

namespace Sys2Proof.Spec

open Sys2Proof.Machine

/-- N and Z set from a value, as numbers: N when it is 128 or more, Z when it is 0 (R84). -/
def withNZ (w : Byte) (s : State) : State :=
  { s with n := decide (128 ≤ w.toNat), z := decide (w.toNat = 0) }

/-- N and Z describe the value (R84). -/
def DescribesNZ (s : State) (w : Byte) : Prop := s.n = decide (128 ≤ w.toNat) ∧ s.z = decide (w.toNat = 0)

/-- The unbounded sum of R121. -/
def sum (m : Byte) (s : State) : Nat := s.a.toNat + m.toNat + s.c.toNat

/-- The state after the addition of R121, as numbers. -/
def withSum (m : Byte) (s : State) : State :=
  withNZ (BitVec.ofNat 8 (sum m s))
    { s with
      a := BitVec.ofNat 8 (sum m s)
      c := decide (255 < sum m s)
      v := decide (s.a.getLsbD 7 = m.getLsbD 7 ∧ (BitVec.ofNat 8 (sum m s)).getLsbD 7 ≠ s.a.getLsbD 7) }

/-- `(v + d) mod 256`, as numbers (R85). -/
def stepped (δ : Delta) (w : Byte) : Byte :=
  match δ with
  | .inc => BitVec.ofNat 8 (w.toNat + 1)
  | .dec => BitVec.ofNat 8 (w.toNat + 255)

/-- Result and new carry of the four shifts, as numbers (R141 to R144). -/
def shifted (op : ShiftOp) (w : Byte) (cin : Bool) : Byte × Bool :=
  match op with
  | .asl => (BitVec.ofNat 8 (2 * w.toNat), decide (128 ≤ w.toNat))
  | .lsr => (BitVec.ofNat 8 (w.toNat / 2), decide (w.toNat % 2 = 1))
  | .rol => (BitVec.ofNat 8 (2 * w.toNat + cin.toNat), decide (128 ≤ w.toNat))
  | .ror => (BitVec.ofNat 8 (w.toNat / 2 + 128 * cin.toNat), decide (w.toNat % 2 = 1))

/-- `i` is the instruction at `PC`: the decoder reads it from the bytes there (R50, R70). -/
def InstrAtPC (s : State) (i : Instr) : Prop :=
  ∃ rest, decode [s.cell s.pc, s.cell (s.pc + 1), s.cell (s.pc + 2)] = .instr i rest

/-- The state the handlers receive: `k` bytes fetched, one cycle and one read each. -/
def afterFetches (k : Nat) (s : State) : State :=
  { s with
    pc := s.pc + BitVec.ofNat 16 k
    cyc := BitVec.ofNat 8 k
    dispatcher := .executing
    port := fetchOps k s.pc s }

/-- The state `exec` receives: the instruction's bytes fetched. -/
def fetched (i : Instr) (s : State) : State := afterFetches i.length s

/-- Under the parameters `p`, the byte at `PC` is mapped to the instruction `mn` in mode `md`, and with the
operand bytes after it the handlers receive `c` (R50, R54, R70). -/
def PairAtPC (p : Params) (s : State) (mn : Mnemonic) (md : Mode) (c : Control) : Prop :=
  p.opcodeMap (s.cell s.pc) = some (mn, md) ∧
    ∃ f rest, mn.format md = some f ∧ f.read [s.cell (s.pc + 1), s.cell (s.pc + 2)] = .instr c rest

/-- What the rules of the families say, in numbers, for any control and any cycle parameters: R100, R110,
R120 to R124, R130, R133, R140 to R144. -/
def effect (p : Params) : Control → State → State
  | .loadImm r w, s => withNZ w (afterOps (idleOps p.immHandlerCycle) (s.setReg r w))
  | .loadMem r m, s =>
    withNZ (s.cell (effectiveAddress m s))
      (afterOps (resolverOps m s ++ [readOp m s]) (s.setReg r (s.cell (effectiveAddress m s))))
  | .store r m, s =>
    afterOps (resolverOps m s ++ [.write (effectiveAddress m s) (s.reg r)])
      (s.setCell (effectiveAddress m s) (s.reg r))
  | .addImm w, s => withSum w (afterOps (idleOps p.immHandlerCycle) s)
  | .addMem m, s => withSum (s.cell (effectiveAddress m s)) (afterOps (resolverOps m s ++ [readOp m s]) s)
  | .subImm w, s => withSum (BitVec.ofNat 8 (255 - w.toNat)) (afterOps (idleOps p.immHandlerCycle) s)
  | .subMem m, s =>
    withSum (BitVec.ofNat 8 (255 - (s.cell (effectiveAddress m s)).toNat))
      (afterOps (resolverOps m s ++ [readOp m s]) s)
  | .stepMem δ m, s =>
    withNZ (stepped δ (s.cell (effectiveAddress m s)))
      (afterOps (resolverOps m s ++ readOp m s :: idleOps p.rmwExtraCycle ++
          [.write (effectiveAddress m s) (stepped δ (s.cell (effectiveAddress m s)))])
        (s.setCell (effectiveAddress m s) (stepped δ (s.cell (effectiveAddress m s)))))
  | .stepReg r δ, s => withNZ (stepped δ (s.reg r)) (s.setReg r (stepped δ (s.reg r)))
  | .shiftAcc op, s =>
    withNZ (shifted op s.a s.c).1
      { afterOps [.idle] s with a := (shifted op s.a s.c).1, c := (shifted op s.a s.c).2 }
  | .shiftMem op m, s =>
    let out := shifted op (s.cell (effectiveAddress m s)) s.c
    withNZ out.1
      { afterOps (resolverOps m s ++ [readOp m s, .idle, .write (effectiveAddress m s) out.1])
          (s.setCell (effectiveAddress m s) out.1) with
        c := out.2 }

/-- The same function on whichever state an outcome carries. -/
def mapState (f : State → State) : Result → Result
  | .next t => .next (f t)
  | .fault (.unknownOpcode byte t) => .fault (.unknownOpcode byte (f t))
  | .refused r => .refused r

/-- Other values of the fields that no instruction touches. -/
def withInert (sp : Addr) (b d i : Bool) (s : State) : State := { s with sp := sp, b := b, d := d, i := i }

/-- A state without the cycle count and the port's record. -/
def withoutCycles (s : State) : State := { s with cyc := 0, port := [] }

/-- What holds between steps: memory canonical, the dispatcher in `Fetching` (R18), `Cyc` the number of
cycles on the port and at most `most` (R16), never N and Z together (R84), B D I zero (R12). -/
def InvUpTo (most : Nat) (s : State) : Prop :=
  s.mem.wf = true ∧ s.dispatcher = .fetching ∧ s.cyc.toNat = s.port.length ∧ s.port.length ≤ most ∧
    ¬(s.n = true ∧ s.z = true) ∧ s.b = false ∧ s.d = false ∧ s.i = false

/-- The invariant under the default map: at most 7 cycles (R16). -/
def Inv (s : State) : Prop := InvUpTo 7 s

/-- What holds of the block between transactions: memory canonical always, the invariant once reset. -/
def BlockInv (most : Nat) (k : Block) : Prop :=
  k.core.mem.wf = true ∧ (k.resetDone = true → InvUpTo most k.core)

/-- The map gives no instruction a mode it does not have in the matrix of R55. -/
def WithinMatrix (p : Params) : Prop := ∀ b mn md, p.opcodeMap b = some (mn, md) → md ∈ mn.modes

end Sys2Proof.Spec

open Sys2Proof Sys2Proof.Machine Sys2Proof.Spec

/-! ### Encoding and decoding -/

/-- R50, R51, R55: every instruction, with every operand, is decoded from its own encoding whatever bytes
follow. The opcode bytes are those the spec supplies from general knowledge (log entry 5). -/
def Obligations.DecodeInvertsEncode : Prop :=
  ∀ (i : Instr) (rest : List Byte), decode (encode i ++ rest) = .instr i rest

/-- R50, R58: the bytes the decoder consumed are the encoding of the instruction it answered. -/
def Obligations.EncodeInvertsDecode : Prop :=
  ∀ (bytes : List Byte) (i : Instr) (rest : List Byte),
    decode bytes = .instr i rest → bytes = encode i ++ rest

/-- R55, R57: 79 known bytes, no two alike, 177 unknown ones, 0x02 among them (log entry 5). -/
def Obligations.OpcodeTableHasSeventyNineDistinctBytes : Prop :=
  opcodeTable.length = 79 ∧ opcodeTable.Pairwise (fun row row' => row.1 ≠ row'.1) ∧
    ((List.range 256).filter fun k => (opcodeMap (BitVec.ofNat 8 k)).isNone).length = 177 ∧
    (opcodeMap 0x02#8).isNone = true

/-- R50, R54, R58: a mapped opcode byte alone fixes instruction and length, and no operand byte is refused;
the same for every pair another map could hold. -/
def Obligations.EveryOperandByteIsLegal : Prop :=
  (∀ (b : Byte) (f : Format Instr) (operands rest : List Byte),
    instrFormat b = some f → operands.length = f.operandBytes →
      ∃ i, decode (b :: (operands ++ rest)) = .instr i rest ∧ i.opcode = b ∧ i.operandBytes = operands ∧
        i.length = 1 + f.operandBytes) ∧
    ∀ (mn : Mnemonic) (md : Mode) (f : Format Control) (operands rest : List Byte),
      mn.format md = some f → operands.length = md.operandBytes →
        ∃ c, f.read (operands ++ rest) = .instr c rest

/-- R56, R59, R101 to R144: words written out from the encoding tables (log entry 5). -/
def Obligations.SpecWordsDecodeAsWritten : Prop :=
  decode [0xE8#8] = .instr .inx [] ∧ decode [0x0A#8] = .instr .aslAcc [] ∧
    decode [0xA9#8, 0x01#8] = .instr (.ldaImm 0x01#8) [] ∧
    decode [0xA5#8, 0x10#8] = .instr (.ldaZp 0x10#8) [] ∧
    decode [0xB5#8, 0x10#8] = .instr (.ldaZpx 0x10#8) [] ∧
    decode [0xB6#8, 0x10#8] = .instr (.ldxZpy 0x10#8) [] ∧
    decode [0x8D#8, 0x00#8, 0x20#8] = .instr (.staAbs 0x2000#16) [] ∧
    decode [0xBD#8, 0x00#8, 0x20#8] = .instr (.ldaAbx 0x2000#16) [] ∧
    decode [0xB9#8, 0x00#8, 0x20#8] = .instr (.ldaAby 0x2000#16) [] ∧
    decode [0xA1#8, 0x20#8] = .instr (.ldaIzx 0x20#8) [] ∧
    decode [0xB1#8, 0x20#8] = .instr (.ldaIzy 0x20#8) [] ∧
    decode [0xED#8, 0x34#8, 0x12#8] = .instr (.sbcAbs 0x1234#16) [] ∧
    decode [0xCE#8, 0x00#8, 0x20#8] = .instr (.decAbs 0x2000#16) [] ∧
    decode [0x6E#8, 0x00#8, 0x20#8] = .instr (.rorAbs 0x2000#16) []

/-- R55, R58: the forms that pass the well-formedness check are exactly those of the 79 constructors
(log entry 5). -/
def Obligations.WellFormedFormsAreTheInstructions : Prop :=
  ∀ f : Form, f.wf = true ↔ ∃ i : Instr, i.form = f

/-- R54, R11: what the handlers receive for each of the 79 follows from its mnemonic, its mode and its
operand bytes alone; and every pair of the matrix of R55 has a handler that takes its mode. -/
def Obligations.ControlFollowsMnemonicModeAndOperand : Prop :=
  (∀ i : Instr, ∃ f, i.mnemonic.format i.mode = some f ∧ f.read i.operandBytes = .instr i.control []) ∧
    ∀ (mn : Mnemonic) (md : Mode), md ∈ mn.modes → (mn.format md).isSome = true

/-! ### Primitives and the resolver -/

/-- R31: one read. -/
def Obligations.MemReadReturnsTheCell : Prop :=
  ∀ (q : Addr) (s : State),
    memRead q s = (s.cell q, { s with cyc := s.cyc + 1, port := s.port ++ [.read q (s.cell q)] })

/-- R32: one write; every other cell and everything but memory, `Cyc` and the port stays. -/
def Obligations.MemWriteStoresOneCell : Prop :=
  ∀ (q : Addr) (w : Byte) (s : State),
    (memWrite q w s).1 = w ∧ (memWrite q w s).2.cell q = w ∧
      (∀ q', q' ≠ q → (memWrite q w s).2.cell q' = s.cell q') ∧
      ∃ m, (memWrite q w s).2 = { s with mem := m, cyc := s.cyc + 1, port := s.port ++ [.write q w] }

/-- R33: a read at `PC`, then `PC` plus one modulo 65536; and executing an instruction moves `PC` no
further. -/
def Obligations.FetchReadsAndAdvancesPC : Prop :=
  (∀ s : State, (fetch s).1 = (memRead s.pc s).1 ∧
      (fetch s).2 = { (memRead s.pc s).2 with pc := s.pc + 1 } ∧
      (fetch s).2.pc.toNat = (s.pc.toNat + 1) % 65536) ∧
    ∀ (i : Instr) (s t : State), exec i s = .next t → t.pc = s.pc

/-- R34: a counted cycle in which the port is unused. -/
def Obligations.IdleCountsACycle : Prop :=
  ∀ s : State, idle s = { s with cyc := s.cyc + 1, port := s.port ++ [.idle] }

/-- R76 to R81 with R37 to R39, in numbers. That the pointer word is little-endian is the spec's own
choice (D12). -/
def Obligations.ModesResolveToTheirAddress : Prop :=
  ∀ (s : State) (nn : Byte) (w : Addr),
    (resolve (.zp nn) s).1.toNat = nn.toNat ∧
    (resolve (.zpx nn) s).1.toNat = (nn.toNat + s.x.toNat) % 256 ∧
    (resolve (.zpy nn) s).1.toNat = (nn.toNat + s.y.toNat) % 256 ∧
    (resolve (.abs w) s).1 = w ∧
    (resolve (.abx w) s).1.toNat = (w.toNat + s.x.toNat) % 65536 ∧
    (resolve (.aby w) s).1.toNat = (w.toNat + s.y.toNat) % 65536 ∧
    (resolve (.izx nn) s).1.toNat =
      (s.cell (BitVec.ofNat 16 ((nn.toNat + s.x.toNat) % 256))).toNat +
        256 * (s.cell (BitVec.ofNat 16 ((nn.toNat + s.x.toNat + 1) % 256))).toNat ∧
    (resolve (.izy nn) s).1.toNat =
      ((s.cell (BitVec.ofNat 16 nn.toNat)).toNat +
        256 * (s.cell (BitVec.ofNat 16 ((nn.toNat + 1) % 256))).toNat + s.y.toNat) % 65536

/-- R38: the three sums the rule names. -/
def Obligations.AddressSumsWrapModulo65536 : Prop :=
  ∀ (s : State) (w : Addr) (nn : Byte),
    (fetch s).2.pc.toNat = (s.pc.toNat + 1) % 65536 ∧
    (resolve (.abx w) s).1.toNat = (w.toNat + s.x.toNat) % 65536 ∧
    (resolve (.aby w) s).1.toNat = (w.toNat + s.y.toNat) % 65536 ∧
    (resolve (.izy nn) s).1.toNat = ((readPointer nn s).1.toNat + s.y.toNat) % 65536

/-- R39: the index sums of ZPX, ZPY and IZX, and the two addresses a pointer is read from (in either
order: the order is the spec's own choice, D14). -/
def Obligations.ZeroPageSumsWrapModulo256 : Prop :=
  ∀ (s : State) (nn q : Byte),
    (resolve (.zpx nn) s).1.toNat = (nn.toNat + s.x.toNat) % 256 ∧
    (resolve (.zpy nn) s).1.toNat = (nn.toNat + s.y.toNat) % 256 ∧
    (resolve (.izx nn) s).1 = (readPointer (BitVec.ofNat 8 ((nn.toNat + s.x.toNat) % 256)) s).1 ∧
    (resolve (.izy nn) s).1 = indexed (readPointer nn s).1 s.y ∧
    ∃ reads, (readPointer q s).2 = afterOps reads s ∧
      reads.Perm [.read (BitVec.ofNat 16 q.toNat) (s.cell (BitVec.ofNat 16 q.toNat)),
        .read (BitVec.ofNat 16 ((q.toNat + 1) % 256)) (s.cell (BitVec.ofNat 16 ((q.toNat + 1) % 256)))]

/-- R74, R158: the resolver answers the table's effective address and performs the table's operations;
it writes no register, no flag and no memory. Byte order and order of operations are the spec's own
choices (D12, D14). -/
def Obligations.ResolverFollowsTheBusTable : Prop :=
  ∀ (m : MemOperand) (s : State), resolve m s = (effectiveAddress m s, afterOps (resolverOps m s) s)

/-- R77, R79 to R82: a crossing happens exactly when the low byte and the index exceed 255 (a wrap past
0xFFFF counts, the spec's own choice D22); ABX, ABY and IZY then count one more cycle, ZPX, ZPY and IZX
count theirs always. -/
def Obligations.PageCrossingAddsOneCycle : Prop :=
  (∀ (base : Addr) (r : Byte), pageCross base (indexed base r) = decide (255 < base.toNat % 256 + r.toNat)) ∧
    ∀ (s : State) (nn : Byte) (w : Addr),
      (resolve (.zp nn) s).2.cyc = s.cyc ∧ (resolve (.abs w) s).2.cyc = s.cyc ∧
      (resolve (.zpx nn) s).2.cyc = s.cyc + 1 ∧ (resolve (.zpy nn) s).2.cyc = s.cyc + 1 ∧
      (resolve (.izx nn) s).2.cyc = s.cyc + 3 ∧
      (resolve (.abx w) s).2.cyc = s.cyc + (if 255 < w.toNat % 256 + s.x.toNat then 1 else 0) ∧
      (resolve (.aby w) s).2.cyc = s.cyc + (if 255 < w.toNat % 256 + s.y.toNat then 1 else 0) ∧
      (resolve (.izy nn) s).2.cyc =
        s.cyc + 2 + (if 255 < (readPointer nn s).1.toNat % 256 + s.y.toNat then 1 else 0)

/-! ### What each instruction does: `exec` answers this next state -/

/-- R100 to R103, immediate forms of `LDA LDX LDY`. No cycle beyond the operand fetch is the spec's own
choice (D9). -/
def Obligations.LoadImmediateResult : Prop :=
  ∀ (i : Instr) (r : Reg) (w : Byte) (s : State), i.control = .loadImm r w →
    exec i s = .next (withNZ w (s.setReg r w))

/-- R100 to R103, memory forms of `LDA LDX LDY`. The places of internal cycles are the spec's own choice
(D14). -/
def Obligations.LoadMemoryResult : Prop :=
  ∀ (i : Instr) (r : Reg) (m : MemOperand) (s : State), i.control = .loadMem r m →
    exec i s = .next (withNZ (s.cell (resolve m s).1)
      (afterOps (resolverOps m s ++ [.read (resolve m s).1 (s.cell (resolve m s).1)])
        (s.setReg r (s.cell (resolve m s).1))))

/-- R110 to R113, `STA STX STY`: one write, no flag, no read of the destination (order of cycles: D14). -/
def Obligations.StoreResult : Prop :=
  ∀ (i : Instr) (r : Reg) (m : MemOperand) (s : State), i.control = .store r m →
    exec i s = .next (afterOps (resolverOps m s ++ [.write (resolve m s).1 (s.reg r)])
      (s.setCell (resolve m s).1 (s.reg r)))

/-- R120, R121, R123, all forms of `ADC` (immediate cycles: D9; order of cycles: D14). -/
def Obligations.AddResult : Prop :=
  ∀ (i : Instr) (s : State),
    (∀ w, i.control = .addImm w → exec i s = .next (withSum w s)) ∧
    ∀ m, i.control = .addMem m →
      exec i s = .next (withSum (s.cell (resolve m s).1)
        (afterOps (resolverOps m s ++ [.read (resolve m s).1 (s.cell (resolve m s).1)]) s))

/-- R120, R121, R124, all forms of `SBC`: the addition of 255 - m (immediate cycles: D9; order: D14). -/
def Obligations.SubtractResult : Prop :=
  ∀ (i : Instr) (s : State),
    (∀ w, i.control = .subImm w → exec i s = .next (withSum (BitVec.ofNat 8 (255 - w.toNat)) s)) ∧
    ∀ m, i.control = .subMem m →
      exec i s = .next (withSum (BitVec.ofNat 8 (255 - (s.cell (resolve m s).1).toNat))
        (afterOps (resolverOps m s ++ [.read (resolve m s).1 (s.cell (resolve m s).1)]) s))

/-- R130 to R132, `INC DEC`: one read and one write of the same cell. No internal cycle between them is the
spec's own choice (D10, log entry 4), and so is the place of the resolver's (D14, log entry 6). -/
def Obligations.MemoryStepResult : Prop :=
  ∀ (i : Instr) (δ : Delta) (m : MemOperand) (s : State), i.control = .stepMem δ m →
    exec i s = .next (withNZ (stepped δ (s.cell (resolve m s).1))
      (afterOps (resolverOps m s ++ [.read (resolve m s).1 (s.cell (resolve m s).1),
          .write (resolve m s).1 (stepped δ (s.cell (resolve m s).1))])
        (s.setCell (resolve m s).1 (stepped δ (s.cell (resolve m s).1)))))

/-- R133 to R137, `INX INY DEX DEY`. No cycle beyond the opcode fetch is the spec's own choice (D11). -/
def Obligations.RegisterStepResult : Prop :=
  ∀ (i : Instr) (r : Reg) (δ : Delta) (s : State), i.control = .stepReg r δ →
    exec i s = .next (withNZ (stepped δ (s.reg r)) (s.setReg r (stepped δ (s.reg r))))

/-- R140 to R144, `ASL A`, `LSR A`, `ROL A`, `ROR A`. -/
def Obligations.AccumulatorShiftResult : Prop :=
  ∀ (i : Instr) (op : ShiftOp) (s : State), i.control = .shiftAcc op →
    exec i s = .next (withNZ (shifted op s.a s.c).1
      { afterOps [.idle] s with a := (shifted op s.a s.c).1, c := (shifted op s.a s.c).2 })

/-- R140 to R144, memory forms of `ASL LSR ROL ROR`: read, internal cycle, write (its place: D14). -/
def Obligations.MemoryShiftResult : Prop :=
  ∀ (i : Instr) (op : ShiftOp) (m : MemOperand) (s : State), i.control = .shiftMem op m →
    exec i s = .next (withNZ (shifted op (s.cell (resolve m s).1) s.c).1
      { afterOps (resolverOps m s ++ [.read (resolve m s).1 (s.cell (resolve m s).1), .idle,
            .write (resolve m s).1 (shifted op (s.cell (resolve m s).1) s.c).1])
          (s.setCell (resolve m s).1 (shifted op (s.cell (resolve m s).1) s.c).1) with
        c := (shifted op (s.cell (resolve m s).1) s.c).2 })

/-- R141 to R144: each function on the accumulator and on memory, with the flags and the cost the rules
give (one internal cycle; a memory form also its read and its write, beyond addressing). -/
def Obligations.ShiftsFollowTheirRules : Prop :=
  ∀ (i : Instr) (op : ShiftOp) (s : State),
    (i.control = .shiftAcc op → ∃ t, exec i s = .next t ∧
      t.a = (shifted op s.a s.c).1 ∧ t.c = (shifted op s.a s.c).2 ∧ DescribesNZ t t.a ∧ t.cyc = s.cyc + 1) ∧
    ∀ m, i.control = .shiftMem op m → ∃ t, exec i s = .next t ∧
      t.cell (resolve m s).1 = (shifted op (s.cell (resolve m s).1) s.c).1 ∧
      t.c = (shifted op (s.cell (resolve m s).1) s.c).2 ∧ DescribesNZ t (t.cell (resolve m s).1) ∧
      t.cyc = (resolve m s).2.cyc + 3

/-! ### The ALU and the flags -/

/-- R121: the pseudocode, the equivalent form of V, and the signed and unsigned readings of V and C. -/
def Obligations.AddWithCarryFollowsItsFormula : Prop :=
  ∀ (m : Byte) (s : State),
    addWithCarry m s = withSum m s ∧
    (addWithCarry m s).v =
      ((s.a ^^^ (addWithCarry m s).a) &&& (m ^^^ (addWithCarry m s).a)).getLsbD 7 ∧
    (addWithCarry m s).v = decide (s.a.toInt + m.toInt + s.c.toNat < -128 ∨ 127 < s.a.toInt + m.toInt + s.c.toNat) ∧
    (addWithCarry m s).c = decide (255 < s.a.toNat + m.toNat + s.c.toNat)

/-- R122: `AddWithCarry` is binary whatever `D` holds (the spec's own choice D18), and no instruction and
no host operation sets `D`. -/
def Obligations.AdditionNeverReadsDecimalFlag : Prop :=
  (∀ (m : Byte) (s : State) (d : Bool), addWithCarry m { s with d := d } = { withSum m s with d := d }) ∧
    (∀ (i : Instr) (s t : State), exec i s = .next t → t.d = s.d) ∧
    ∀ (p : Params) (tr : Transaction) (k : Block), (transact p tr k).2.core.d = true → k.core.d = true

/-- R124: `SBC` is `ADC` of the complement, in every mode; in numbers it subtracts `m` and the borrow
`1 - C`, `C` says that no borrow occurred, and `V` is the signed overflow of the subtraction. -/
def Obligations.SubtractionIsComplementAddition : Prop :=
  (∀ (w : Byte) (s : State), exec (.sbcImm w) s = exec (.adcImm (~~~w)) s) ∧
    (∀ (i : Instr) (m : MemOperand) (s : State), i.control = .subMem m →
      ∃ t u, exec i s = .next t ∧ exec (.adcImm (~~~(s.cell (resolve m s).1))) s = .next u ∧
        t.a = u.a ∧ t.n = u.n ∧ t.v = u.v ∧ t.z = u.z ∧ t.c = u.c) ∧
    ∀ (w : Byte) (s t : State), exec (.sbcImm w) s = .next t →
      t.a.toNat = (s.a.toNat + 256 - w.toNat - (1 - s.c.toNat)) % 256 ∧
      t.c = decide (w.toNat + (1 - s.c.toNat) ≤ s.a.toNat) ∧
      t.v = decide (s.a.toInt - w.toInt - (1 - s.c.toNat : Int) < -128 ∨
        127 < s.a.toInt - w.toInt - (1 - s.c.toNat : Int))

/-- R84: the value each instruction's N and Z describe; the stores leave both; after any of the others
they are never both 1. -/
def Obligations.NAndZDescribeTheResult : Prop :=
  (∀ (w : Byte) (s : State), updateNZ w s = withNZ w s) ∧
    ∀ (i : Instr) (s t : State), exec i s = .next t →
      match i.control with
      | .loadImm r _ | .loadMem r _ | .stepReg r _ => DescribesNZ t (t.reg r) ∧ ¬(t.n = true ∧ t.z = true)
      | .addImm _ | .addMem _ | .subImm _ | .subMem _ | .shiftAcc _ =>
        DescribesNZ t t.a ∧ ¬(t.n = true ∧ t.z = true)
      | .stepMem _ m | .shiftMem _ m =>
        DescribesNZ t (t.cell (resolve m s).1) ∧ ¬(t.n = true ∧ t.z = true)
      | .store _ _ => t.n = s.n ∧ t.z = s.z

/-- R12, R110: V only by `ADC SBC`; C only by those and the shifts; N and Z by all but the stores; B D I
by none. -/
def Obligations.FlagsAreWrittenOnlyByTheirInstructions : Prop :=
  ∀ (i : Instr) (s t : State), exec i s = .next t →
    t.b = s.b ∧ t.d = s.d ∧ t.i = s.i ∧
      match i.control with
      | .addImm _ | .addMem _ | .subImm _ | .subMem _ => True
      | .shiftAcc _ | .shiftMem _ _ => t.v = s.v
      | .loadImm _ _ | .loadMem _ _ | .stepMem _ _ | .stepReg _ _ => t.v = s.v ∧ t.c = s.c
      | .store _ _ => t.v = s.v ∧ t.c = s.c ∧ t.n = s.n ∧ t.z = s.z

/-- R7, R54, R100 to R144: for every control another opcode map could select and both values of the cycle
parameters, the handler's whole effect (pointer words: D12; register steps: D11; order of cycles: D14). -/
def Obligations.ExecuteFollowsTheRulesUnderAnyParameters : Prop :=
  ∀ (p : Params) (c : Control) (s : State), execute p c s = effect p c s

/-! ### Frames: what each family leaves unchanged -/

/-- `LDA LDX LDY` (R100): the other two registers, SP, the flags but N and Z, every cell. -/
def Obligations.LoadFrame : Prop :=
  ∀ (i : Instr) (r : Reg) (s t : State),
    ((∃ w, i.control = .loadImm r w) ∨ ∃ m, i.control = .loadMem r m) → exec i s = .next t →
      (∀ r', r' ≠ r → t.reg r' = s.reg r') ∧ t.sp = s.sp ∧ t.v = s.v ∧ t.c = s.c ∧ t.b = s.b ∧ t.d = s.d ∧
        t.i = s.i ∧ t.dispatcher = s.dispatcher ∧ ∀ q, t.cell q = s.cell q

/-- `STA STX STY` (R110): every register and flag, and every cell but the one stored to. -/
def Obligations.StoreFrame : Prop :=
  ∀ (i : Instr) (r : Reg) (m : MemOperand) (s t : State), i.control = .store r m → exec i s = .next t →
    (∀ r', t.reg r' = s.reg r') ∧ t.sp = s.sp ∧ t.n = s.n ∧ t.v = s.v ∧ t.b = s.b ∧ t.d = s.d ∧ t.i = s.i ∧
      t.z = s.z ∧ t.c = s.c ∧ t.dispatcher = s.dispatcher ∧
      ∀ q, q ≠ (resolve m s).1 → t.cell q = s.cell q

/-- `ADC SBC` (R120 to R124): X, Y, SP, B, D, I, every cell. -/
def Obligations.AddSubtractFrame : Prop :=
  ∀ (i : Instr) (s t : State),
    ((∃ w, i.control = .addImm w) ∨ (∃ m, i.control = .addMem m) ∨ (∃ w, i.control = .subImm w) ∨
      ∃ m, i.control = .subMem m) → exec i s = .next t →
      t.x = s.x ∧ t.y = s.y ∧ t.sp = s.sp ∧ t.b = s.b ∧ t.d = s.d ∧ t.i = s.i ∧
        t.dispatcher = s.dispatcher ∧ ∀ q, t.cell q = s.cell q

/-- `INC DEC` and the memory forms of `ASL LSR ROL ROR` (R130, R140): every register, V B D I (and C for
`INC DEC`), and every cell but the one written back. -/
def Obligations.ReadModifyWriteFrame : Prop :=
  ∀ (i : Instr) (m : MemOperand) (s t : State),
    ((∃ δ, i.control = .stepMem δ m) ∨ ∃ op, i.control = .shiftMem op m) → exec i s = .next t →
      (∀ r, t.reg r = s.reg r) ∧ t.sp = s.sp ∧ t.v = s.v ∧ t.b = s.b ∧ t.d = s.d ∧ t.i = s.i ∧
        ((∃ δ, i.control = .stepMem δ m) → t.c = s.c) ∧ t.dispatcher = s.dispatcher ∧
        ∀ q, q ≠ (resolve m s).1 → t.cell q = s.cell q

/-- `INX INY DEX DEY` and `ASL LSR ROL ROR A` (R133, R140): every other register, SP, V B D I (and C for
the steps), every cell. -/
def Obligations.RegisterFormFrame : Prop :=
  ∀ (i : Instr) (r : Reg) (s t : State),
    ((∃ δ, i.control = .stepReg r δ) ∨ (r = .a ∧ ∃ op, i.control = .shiftAcc op)) → exec i s = .next t →
      (∀ r', r' ≠ r → t.reg r' = s.reg r') ∧ t.sp = s.sp ∧ t.v = s.v ∧ t.b = s.b ∧ t.d = s.d ∧ t.i = s.i ∧
        ((∃ δ, i.control = .stepReg r δ) → t.c = s.c) ∧ t.dispatcher = s.dispatcher ∧
        ∀ q, t.cell q = s.cell q

/-! ### The step -/

/-- R35, R72, R174: a known instruction always completes, at every address, and control does nothing but
fall through. -/
def Obligations.KnownInstructionsAlwaysComplete : Prop :=
  ∀ (i : Instr) (s : State), ∃ t, exec i s = .next t ∧ t.pc = s.pc

/-- R70: when the bytes at `PC` decode to `i`, the step is `exec i` after the fetch of its bytes, and the
dispatcher's return to `Fetching`. -/
def Obligations.StepRunsTheDecodedInstruction : Prop :=
  ∀ (s : State) (i : Instr), InstrAtPC s i →
    ∃ t, exec i (fetched i s) = .next t ∧ step s = .next { t with dispatcher := .fetching }

/-- R70 with R7, D1, D2: under any parameters, when the byte at `PC` is mapped to a pair, the step is its
handler after the fetch of its bytes, and the dispatcher's return to `Fetching`. -/
def Obligations.StepWithRunsTheMappedPair : Prop :=
  ∀ (p : Params) (s : State) (mn : Mnemonic) (md : Mode) (c : Control), PairAtPC p s mn md c →
    stepWith p s =
      .next { execute p c (afterFetches (1 + md.operandBytes) s) with dispatcher := .fetching }

/-- R7: the machine with the default parameters (the values of log entries 1, 2, 4 and 5) is the one that
decodes the 79 instructions and runs `exec`. -/
def Obligations.StepIsTheDefaultInstance : Prop :=
  (∀ s : State, step s = stepWith Params.default s) ∧
    (∀ (i : Instr) (s : State), exec i s = .next (execute Params.default i.control s)) ∧
    ∀ b : Byte, controlFormat opcodeMap b = none ↔ instrFormat b = none

/-- R171, under any parameters: the fault is raised exactly for a byte without a (mode, handler) mapping
and carries it; nothing but the opcode byte is fetched, and no register, flag or cell changes (where `PC`
and `Cyc` stand is D8 and a statement of its own); a byte with one never raises it, and no handler does.
That a byte which the map gives a pair without a handler counts among the former is the model's choice (log
entry 18); the default map holds no such pair. -/
def Obligations.StepFaultsExactlyOnUnknownOpcode : Prop :=
  ∀ (p : Params) (s : State),
    (controlFormat p.opcodeMap (s.cell s.pc) = none →
      ∃ t, stepWith p s = .fault (.unknownOpcode (s.cell s.pc) t) ∧ t.port = [.read s.pc (s.cell s.pc)] ∧
        { t with pc := s.pc, cyc := s.cyc, dispatcher := s.dispatcher, port := s.port } = s) ∧
    (∀ f, controlFormat p.opcodeMap (s.cell s.pc) = some f → ∃ t, stepWith p s = .next t) ∧
    ∀ i : Instr, ∃ t, exec i s = .next t

/-- R172, under any parameters: nothing changes but `PC` and `Cyc` (and the port's record). `PC` one past
the byte and `Cyc` 1 are the spec's own choice (D8, log entry 8). That a byte which the map gives a pair
without a handler is an unknown opcode too is the model's choice (log entry 18). -/
def Obligations.UnknownOpcodeLeavesTheState : Prop :=
  ∀ (p : Params) (s : State), controlFormat p.opcodeMap (s.cell s.pc) = none →
    stepWith p s = .fault (.unknownOpcode (s.cell s.pc)
      { s with pc := s.pc + 1, cyc := 1, dispatcher := .fetching, port := [.read s.pc (s.cell s.pc)] })

/-- R13, R50, R155, spec/95_test_vectors.md section 4: a step of a known opcode completes in 1 to 7
cycles, `PC` advances by the instruction's length, and the dispatcher is back in `Fetching`. Under a map
with pairs outside the matrix of R55 a step may take 8 (log entry 18). -/
def Obligations.KnownStepAdvancesByLength : Prop :=
  (∀ (s : State) (i : Instr), InstrAtPC s i →
    ∃ t, step s = .next t ∧ t.pc.toNat = (s.pc.toNat + i.length) % 65536 ∧ 1 ≤ i.length ∧ i.length ≤ 3 ∧
      1 ≤ t.cyc.toNat ∧ t.cyc.toNat ≤ 7 ∧ t.dispatcher = .fetching) ∧
    ∀ (p : Params) (s : State) (mn : Mnemonic) (md : Mode) (c : Control), PairAtPC p s mn md c →
      ∃ t, stepWith p s = .next t ∧ t.pc.toNat = (s.pc.toNat + 1 + md.operandBytes) % 65536 ∧
        1 ≤ t.cyc.toNat ∧ t.cyc.toNat ≤ 8 ∧ (md ∈ mn.modes → t.cyc.toNat ≤ 7) ∧ t.dispatcher = .fetching

/-- R199 with R82: the reported count is the formula's, on the state before the step, for every opcode map
and both values of the cycle parameters (the spec's own choices D9, D10, D11, D12, D22 included). -/
def Obligations.CyclesFollowTheFormula : Prop :=
  (∀ (s : State) (i : Instr), InstrAtPC s i →
    ∃ t, step s = .next t ∧ t.cyc.toNat = cycleCount Params.default i.mnemonic i.mode i.control s) ∧
    ∀ (p : Params) (s : State) (mn : Mnemonic) (md : Mode) (c : Control), PairAtPC p s mn md c →
      ∃ t, stepWith p s = .next t ∧ t.cyc.toNat = cycleCount p mn md c s

/-- R158: the operations on the port, in order, are the table's, on the state before the step, for every
opcode map and both values of the cycle parameters. The table holds choices of the spec: the order where it
says so (D14, log entry 6), the cycles of the immediate forms and of `INC DEC` (D9, D10, log entry 4), none
for `INX INY DEX DEY` (D11, log entry 11), and the pointer word of IZX and IZY (D12, log entry 9). -/
def Obligations.PortFollowsTheBusTable : Prop :=
  (∀ (s : State) (i : Instr), InstrAtPC s i →
    ∃ t, step s = .next t ∧ t.port = fetchOps i.length s.pc s ++ execOps Params.default i.control s) ∧
    ∀ (p : Params) (s : State) (mn : Mnemonic) (md : Mode) (c : Control), PairAtPC p s mn md c →
      ∃ t, stepWith p s = .next t ∧ t.port = fetchOps (1 + md.operandBytes) s.pc s ++ execOps p c s

/-- R46, R200, R158: a step writes at most one cell, and the next fetch from that address sees the byte.
That the write is the last entry of the port, internal cycles counted, rests on the spec's own choice D14
of their places (log entry 6). -/
def Obligations.WriteIsLastAndSeenByTheNextFetch : Prop :=
  ∀ (s t : State) (k : Nat) (q : Addr) (w : Byte),
    step s = .next t ∨ (∃ p, stepWith p s = .next t) → t.port[k]? = some (.write q w) →
      k + 1 = t.port.length ∧ (fetch { t with pc := q }).1 = w

/-- R14, R12: no step reads or writes SP (nor B, D, I; that no value of D is read is the spec's own choice
D18, D25, log entry 17): with other values of them it answers the same outcome with those values. Of the
host's transactions only reset sets SP, and the accessor shows it. -/
def Obligations.InertStateIsNeverReadNorWritten : Prop :=
  (∀ (s : State) (sp : Addr) (b d i : Bool),
      step (withInert sp b d i s) = mapState (withInert sp b d i) (step s) ∧
      ∀ p, stepWith p (withInert sp b d i s) = mapState (withInert sp b d i) (stepWith p s)) ∧
    (∀ (p : Params) (tr : Transaction) (k : Block),
      (transact p tr k).2.core.sp = if tr = .reset then p.spReset else k.core.sp) ∧
    ∀ s : State, s.observe.sp = s.sp

/-! ### Reset, invariants, and the host -/

/-- R152, R190 to R195, R197: the whole state after `reset`, for every value of the two parameters (open in
the spec: D5, D6; log entries 1 and 2 for those of `State.reset`), with memory as it was and no bus operation.
`Cyc` 0 is the spec's own choice D20 (log entry 12), that `reset` acts on any block at any time its choice D19
(log entry 15); the empty record `port` is the model's (log entry 6). -/
def Obligations.ResetLeavesTheSpecsValues : Prop :=
  ∀ (p : Params) (k : Block),
    transact p .reset k = (.completed, ⟨State.resetAt p.entryAddress p.spReset k.core.mem, true⟩) ∧
    let s := (transact p .reset k).2.core
    s.a = 0 ∧ s.x = 0 ∧ s.y = 0 ∧ s.pc = p.entryAddress ∧ s.sp = p.spReset ∧ s.n = false ∧ s.v = false ∧
      s.b = false ∧ s.d = false ∧ s.i = false ∧ s.z = false ∧ s.c = false ∧ s.port = [] ∧
      State.reset = State.resetAt Params.default.entryAddress Params.default.spReset []

/-- The invariant holds after reset, for every parameter and every canonical memory. -/
def Obligations.ResetMeetsTheInvariant : Prop :=
  (∀ (entry sp : Addr) (m : Memory), m.wf = true → Inv (State.resetAt entry sp m)) ∧ Inv State.reset

/-- R12, R16, R17, R18, R84 and the model's canonical memory: every step keeps the invariant, one that
reports an unknown opcode included. -/
def Obligations.StepKeepsTheInvariant : Prop :=
  ∀ s : State, Inv s →
    (∀ t, step s = .next t → Inv t) ∧ ∀ byte t, step s = .fault (.unknownOpcode byte t) → Inv t

/-- R151, R157: so does every transaction of the host, whichever it issues and when, under any parameters;
the bound of 7 cycles is that of maps within the matrix of R55, and 8 that of all (log entry 18). -/
def Obligations.TransactionsKeepTheInvariant : Prop :=
  ∀ (p : Params) (tr : Transaction) (k : Block),
    (BlockInv 8 k → BlockInv 8 (transact p tr k).2) ∧
    (WithinMatrix p → BlockInv 7 k → BlockInv 7 (transact p tr k).2) ∧ WithinMatrix Params.default

/-- R194: reset changes no cell. That it may be issued at any moment is the spec's own choice D19 (R197, log
entry 15). -/
def Obligations.HostResetKeepsMemory : Prop :=
  ∀ (p : Params) (k : Block), (transact p .reset k).1 = .completed ∧
    (transact p .reset k).2.core.mem = k.core.mem ∧ ∀ q, (transact p .reset k).2.core.cell q = k.core.cell q

/-- R153: the bytes land at ascending addresses and nothing else changes; a `load` past 65535 is refused
and changes nothing (the spec's own choice, D16). -/
def Obligations.LoadStagesTheBytes : Prop :=
  ∀ (p : Params) (q : Addr) (bytes : List Byte) (k : Block),
    (q.toNat + bytes.length ≤ 65536 →
      (transact p (.load q bytes) k).1 = .completed ∧
      (∀ j (h : j < bytes.length),
        (transact p (.load q bytes) k).2.core.cell (q + BitVec.ofNat 16 j) = bytes[j]) ∧
      (∀ q' : Addr, q'.toNat < q.toNat ∨ q.toNat + bytes.length ≤ q'.toNat →
        (transact p (.load q bytes) k).2.core.cell q' = k.core.cell q') ∧
      ∃ m, (transact p (.load q bytes) k).2 = { k with core := { k.core with mem := m } }) ∧
    (65536 < q.toNat + bytes.length →
      transact p (.load q bytes) k = (.refused (.loadPastEnd q bytes.length), k))

/-- R154, R155, R172, R176, R7: after reset a `step` reports the cycles of a completed step, and the block
holds the state that step answers; or it reports the unknown byte at `PC`, and the block holds the state of
R172, `PC` one past the byte (D8), from which the host may step on. Under the default parameters the step
is `step`, of 1 to 7 cycles; the bound of 8, and that a pair without a handler is an unknown opcode, are
those of other maps (log entry 18). Before the first reset it is refused and changes nothing (the spec's own
choice, D19). -/
def Obligations.HostStepReports : Prop :=
  (∀ (p : Params) (k : Block),
    (k.resetDone = true → (transact p .step k).2.resetDone = true ∧
      ((∃ cycles, (transact p .step k).1 = .done cycles ∧ 1 ≤ cycles.toNat ∧ cycles.toNat ≤ 8 ∧
          (transact p .step k).2.core.cyc = cycles ∧ stepWith p k.core = .next (transact p .step k).2.core ∧
          (controlFormat p.opcodeMap (k.core.cell k.core.pc)).isSome = true) ∨
        ((transact p .step k).1 = .unknownOpcode (k.core.cell k.core.pc) ∧
          (transact p .step k).2.core.pc = k.core.pc + 1 ∧
          stepWith p k.core =
            .fault (.unknownOpcode (k.core.cell k.core.pc) (transact p .step k).2.core) ∧
          (controlFormat p.opcodeMap (k.core.cell k.core.pc)).isNone = true))) ∧
    (k.resetDone = false → transact p .step k = (.refused .stepBeforeReset, k))) ∧
    ∀ k : Block, k.resetDone = true →
      (∃ cycles, (transact Params.default .step k).1 = .done cycles ∧ 1 ≤ cycles.toNat ∧ cycles.toNat ≤ 7 ∧
        step k.core = .next (transact Params.default .step k).2.core) ∨
      ∃ byte, (transact Params.default .step k).1 = .unknownOpcode byte ∧
        step k.core = .fault (.unknownOpcode byte (transact Params.default .step k).2.core)

/-- R151, R156: no transaction but `reset` and `step` changes anything but memory, and the two that
observe change nothing and show what the state holds (reading a cell: D15). -/
def Obligations.OnlyResetAndStepReachTheRegisters : Prop :=
  (∀ (p : Params) (q : Addr) (bytes : List Byte) (k : Block),
    (transact p (.load q bytes) k).2.core.observe = k.core.observe) ∧
    ∀ (p : Params) (k : Block) (q : Addr),
      transact p .observe k = (.observed ⟨k.core.a, k.core.x, k.core.y, k.core.pc, k.core.sp, k.core.n,
        k.core.v, k.core.b, k.core.d, k.core.i, k.core.z, k.core.c, k.core.cyc⟩, k) ∧
      transact p (.readCell q) k = (.cell (k.core.cell q), k)

/-! ### Properties over several operations -/

/-- spec/41_load.md section 3 with R43, R100, R110: a store then a load of the same register from the
same resolved address gives the register back, and only the load's flags. -/
def Obligations.StoreThenLoadRoundTrip : Prop :=
  ∀ (i j : Instr) (r : Reg) (m m' : MemOperand) (s t : State),
    i.control = .store r m → j.control = .loadMem r m' → exec i s = .next t →
    (resolve m' t).1 = (resolve m s).1 →
      ∃ u, exec j t = .next u ∧ (∀ r', u.reg r' = s.reg r') ∧ DescribesNZ u (s.reg r) ∧ u.c = s.c ∧ u.v = s.v

/-- spec/45_shift_rotate.md section 3: `ROL` and `ROR` undo each other, nine of either restore value and
carry, `ASL` and `LSR` are the rotates of carry 0. -/
def Obligations.RotatesAreNineBitRotations : Prop :=
  ∀ (w : Byte) (c : Bool),
    applyShift .ror (applyShift .rol w c).1 (applyShift .rol w c).2 = (w, c) ∧
    applyShift .rol (applyShift .ror w c).1 (applyShift .ror w c).2 = (w, c) ∧
    (fun p : Byte × Bool => applyShift .rol p.1 p.2)^[9] (w, c) = (w, c) ∧
    (fun p : Byte × Bool => applyShift .ror p.1 p.2)^[9] (w, c) = (w, c) ∧
    applyShift .asl w c = applyShift .rol w false ∧ applyShift .lsr w c = applyShift .ror w false

/-- R7: the two cycle parameters change `Cyc` and the port's record and nothing else, in every step of
every opcode map; a meaning at 1 counts its one internal cycle more than at 0. -/
def Obligations.CycleParametersChangeOnlyTheCount : Prop :=
  (∀ (p : Params) (imm rmw : Bool) (s : State),
    mapState withoutCycles (stepWith { p with immHandlerCycle := imm, rmwExtraCycle := rmw } s) =
      mapState withoutCycles (stepWith p s)) ∧
  ∀ (s : State) (w : Byte) (r : Reg) (δ : Delta) (m : MemOperand),
    (∃ ops, loadImm true r w s = { loadImm false r w s with cyc := (loadImm false r w s).cyc + 1, port := ops }) ∧
    (∃ ops, addImm true w s = { addImm false w s with cyc := (addImm false w s).cyc + 1, port := ops }) ∧
    (∃ ops, subImm true w s = { subImm false w s with cyc := (subImm false w s).cyc + 1, port := ops }) ∧
    ∃ ops, stepMem true δ m s = { stepMem false δ m s with cyc := (stepMem false δ m s).cyc + 1, port := ops }
end

