-- ==== Sys2Proof/Laws/Decode.lean ====
section
/-! SUPPORT. Bytes and addresses; the opcode map and its table; the two well-formedness checks. -/

namespace Sys2Proof

theorem wordOfBytes_split (w : Addr) : wordOfBytes (lowByte w) (highByte w) = w := by
  simp only [wordOfBytes, lowByte, highByte]
  ext k hk
  simp only [BitVec.getElem_append, BitVec.getElem_extractLsb']
  split
  · simp [BitVec.getLsbD_eq_getElem hk]
  · have : 8 + (k - 8) = k := by omega
    simp [this, BitVec.getLsbD_eq_getElem hk]

theorem lowByte_wordOfBytes (lo hi : Byte) : lowByte (wordOfBytes lo hi) = lo := by
  simp only [wordOfBytes, lowByte]
  ext k hk
  rw [BitVec.getElem_extractLsb', BitVec.getLsbD_append (x := hi) (y := lo)]
  simp [hk]

theorem highByte_wordOfBytes (lo hi : Byte) : highByte (wordOfBytes lo hi) = hi := by
  simp only [wordOfBytes, highByte]
  ext k hk
  rw [BitVec.getElem_extractLsb', BitVec.getLsbD_append (x := hi) (y := lo)]
  simp [BitVec.getLsbD_eq_getElem hk]

/-- A mapped byte has its row in the table. -/
theorem instrFormat_mem {b : Byte} {f : Format Instr} (h : instrFormat b = some f) : (b, f) ∈ opcodeTable := by
  unfold instrFormat at h
  cases hf : opcodeTable.find? fun row => row.1 == b with
  | none => simp [hf] at h
  | some row =>
    rw [hf] at h
    have hb : row.1 = b := by simpa using List.find?_some hf
    have hr : row.2 = f := by simpa using h
    rw [← hb, ← hr]
    exact List.mem_of_find?_eq_some hf

/-! ### Any opcode map -/

theorem controlFormat_of_pair {map : OpcodeMap} {b : Byte} {mn : Mnemonic} {md : Mode} (h : map b = some (mn, md)) :
    controlFormat map b = mn.format md := by
  simp [controlFormat, h]

/-- A byte with a format under a map is mapped to a pair whose handler takes the mode. -/
theorem controlFormat_some {map : OpcodeMap} {b : Byte} {f : Format Control} (h : controlFormat map b = some f) :
    ∃ mn md, map b = some (mn, md) ∧ mn.format md = some f := by
  cases hm : map b with
  | none => simp [controlFormat, hm] at h
  | some pair => exact ⟨pair.1, pair.2, rfl, by simpa [controlFormat, hm] using h⟩

/-- A pair's format has the operand bytes of its mode (R50, R52). -/
theorem format_operandBytes {mn : Mnemonic} {md : Mode} {f : Format Control} (h : mn.format md = some f) :
    f.operandBytes = md.operandBytes := by
  cases mn <;> cases md <;>
    simp only [Mnemonic.format, valueFormat, memFormat, stepRegFormat, shiftFormat, reduceCtorEq, if_true,
      if_false, Option.some.injEq] at h <;>
    subst h <;> rfl

/-- The operand of an instruction is below the bound of its format. -/
theorem operand_lt (i : Instr) : i.operand < 2 ^ (8 * i.mode.operandBytes) := by
  cases i <;> simp only [Instr.operand, Instr.mode, Mode.operandBytes] <;> first | decide | exact BitVec.isLt _

theorem wf_of_pair (i : Instr) (hp : i.form.pairExists = true)
    (ho : i.operand < 2 ^ (8 * i.mode.operandBytes)) : i.wf = true := by
  have hf : i.form.operandFits = true := decide_eq_true ho
  simp [Instr.wf, Form.wf, hp, hf]

end Sys2Proof
end

