-- ==== Sys2Proof/Laws/State.lean ====
section
/-! SUPPORT. One lemma per field per update of the state, true by `rfl`, so that no later proof unfolds a
record update; then the register accessors. -/

namespace Sys2Proof.Machine

/-! ### `tick`: one counted cycle -/

@[simp] theorem tick_a (op : BusOp) (s : State) : (tick op s).a = s.a := rfl
@[simp] theorem tick_x (op : BusOp) (s : State) : (tick op s).x = s.x := rfl
@[simp] theorem tick_y (op : BusOp) (s : State) : (tick op s).y = s.y := rfl
@[simp] theorem tick_pc (op : BusOp) (s : State) : (tick op s).pc = s.pc := rfl
@[simp] theorem tick_sp (op : BusOp) (s : State) : (tick op s).sp = s.sp := rfl
@[simp] theorem tick_n (op : BusOp) (s : State) : (tick op s).n = s.n := rfl
@[simp] theorem tick_v (op : BusOp) (s : State) : (tick op s).v = s.v := rfl
@[simp] theorem tick_b (op : BusOp) (s : State) : (tick op s).b = s.b := rfl
@[simp] theorem tick_d (op : BusOp) (s : State) : (tick op s).d = s.d := rfl
@[simp] theorem tick_i (op : BusOp) (s : State) : (tick op s).i = s.i := rfl
@[simp] theorem tick_z (op : BusOp) (s : State) : (tick op s).z = s.z := rfl
@[simp] theorem tick_c (op : BusOp) (s : State) : (tick op s).c = s.c := rfl
@[simp] theorem tick_mem (op : BusOp) (s : State) : (tick op s).mem = s.mem := rfl
@[simp] theorem tick_cyc (op : BusOp) (s : State) : (tick op s).cyc = s.cyc + 1 := rfl
@[simp] theorem tick_dispatcher (op : BusOp) (s : State) : (tick op s).dispatcher = s.dispatcher := rfl
@[simp] theorem tick_port (op : BusOp) (s : State) : (tick op s).port = s.port ++ [op] := rfl

/-! ### `setCell` -/

@[simp] theorem setCell_a (s : State) (q : Addr) (w : Byte) : (s.setCell q w).a = s.a := rfl
@[simp] theorem setCell_x (s : State) (q : Addr) (w : Byte) : (s.setCell q w).x = s.x := rfl
@[simp] theorem setCell_y (s : State) (q : Addr) (w : Byte) : (s.setCell q w).y = s.y := rfl
@[simp] theorem setCell_pc (s : State) (q : Addr) (w : Byte) : (s.setCell q w).pc = s.pc := rfl
@[simp] theorem setCell_sp (s : State) (q : Addr) (w : Byte) : (s.setCell q w).sp = s.sp := rfl
@[simp] theorem setCell_n (s : State) (q : Addr) (w : Byte) : (s.setCell q w).n = s.n := rfl
@[simp] theorem setCell_v (s : State) (q : Addr) (w : Byte) : (s.setCell q w).v = s.v := rfl
@[simp] theorem setCell_b (s : State) (q : Addr) (w : Byte) : (s.setCell q w).b = s.b := rfl
@[simp] theorem setCell_d (s : State) (q : Addr) (w : Byte) : (s.setCell q w).d = s.d := rfl
@[simp] theorem setCell_i (s : State) (q : Addr) (w : Byte) : (s.setCell q w).i = s.i := rfl
@[simp] theorem setCell_z (s : State) (q : Addr) (w : Byte) : (s.setCell q w).z = s.z := rfl
@[simp] theorem setCell_c (s : State) (q : Addr) (w : Byte) : (s.setCell q w).c = s.c := rfl
@[simp] theorem setCell_mem (s : State) (q : Addr) (w : Byte) : (s.setCell q w).mem = memSet s.mem q.toNat w := rfl
@[simp] theorem setCell_cyc (s : State) (q : Addr) (w : Byte) : (s.setCell q w).cyc = s.cyc := rfl
@[simp] theorem setCell_dispatcher (s : State) (q : Addr) (w : Byte) : (s.setCell q w).dispatcher = s.dispatcher := rfl
@[simp] theorem setCell_port (s : State) (q : Addr) (w : Byte) : (s.setCell q w).port = s.port := rfl

/-! ### `updateNZ` -/

@[simp] theorem updateNZ_a (w : Byte) (s : State) : (updateNZ w s).a = s.a := rfl
@[simp] theorem updateNZ_x (w : Byte) (s : State) : (updateNZ w s).x = s.x := rfl
@[simp] theorem updateNZ_y (w : Byte) (s : State) : (updateNZ w s).y = s.y := rfl
@[simp] theorem updateNZ_pc (w : Byte) (s : State) : (updateNZ w s).pc = s.pc := rfl
@[simp] theorem updateNZ_sp (w : Byte) (s : State) : (updateNZ w s).sp = s.sp := rfl
@[simp] theorem updateNZ_n (w : Byte) (s : State) : (updateNZ w s).n = w.msb := rfl
@[simp] theorem updateNZ_v (w : Byte) (s : State) : (updateNZ w s).v = s.v := rfl
@[simp] theorem updateNZ_b (w : Byte) (s : State) : (updateNZ w s).b = s.b := rfl
@[simp] theorem updateNZ_d (w : Byte) (s : State) : (updateNZ w s).d = s.d := rfl
@[simp] theorem updateNZ_i (w : Byte) (s : State) : (updateNZ w s).i = s.i := rfl
@[simp] theorem updateNZ_z (w : Byte) (s : State) : (updateNZ w s).z = (w == 0) := rfl
@[simp] theorem updateNZ_c (w : Byte) (s : State) : (updateNZ w s).c = s.c := rfl
@[simp] theorem updateNZ_mem (w : Byte) (s : State) : (updateNZ w s).mem = s.mem := rfl
@[simp] theorem updateNZ_cyc (w : Byte) (s : State) : (updateNZ w s).cyc = s.cyc := rfl
@[simp] theorem updateNZ_dispatcher (w : Byte) (s : State) : (updateNZ w s).dispatcher = s.dispatcher := rfl
@[simp] theorem updateNZ_port (w : Byte) (s : State) : (updateNZ w s).port = s.port := rfl

/-! ### `addWithCarry` -/

@[simp] theorem addWithCarry_a (w : Byte) (s : State) : (addWithCarry w s).a = addResult s.a w s.c := rfl
@[simp] theorem addWithCarry_x (w : Byte) (s : State) : (addWithCarry w s).x = s.x := rfl
@[simp] theorem addWithCarry_y (w : Byte) (s : State) : (addWithCarry w s).y = s.y := rfl
@[simp] theorem addWithCarry_pc (w : Byte) (s : State) : (addWithCarry w s).pc = s.pc := rfl
@[simp] theorem addWithCarry_sp (w : Byte) (s : State) : (addWithCarry w s).sp = s.sp := rfl
@[simp] theorem addWithCarry_n (w : Byte) (s : State) : (addWithCarry w s).n = (addResult s.a w s.c).msb := rfl
@[simp] theorem addWithCarry_v (w : Byte) (s : State) : (addWithCarry w s).v = addOverflow s.a w s.c := rfl
@[simp] theorem addWithCarry_b (w : Byte) (s : State) : (addWithCarry w s).b = s.b := rfl
@[simp] theorem addWithCarry_d (w : Byte) (s : State) : (addWithCarry w s).d = s.d := rfl
@[simp] theorem addWithCarry_i (w : Byte) (s : State) : (addWithCarry w s).i = s.i := rfl
@[simp] theorem addWithCarry_z (w : Byte) (s : State) : (addWithCarry w s).z = (addResult s.a w s.c == 0) := rfl
@[simp] theorem addWithCarry_c (w : Byte) (s : State) : (addWithCarry w s).c = addCarry s.a w s.c := rfl
@[simp] theorem addWithCarry_mem (w : Byte) (s : State) : (addWithCarry w s).mem = s.mem := rfl
@[simp] theorem addWithCarry_cyc (w : Byte) (s : State) : (addWithCarry w s).cyc = s.cyc := rfl
@[simp] theorem addWithCarry_dispatcher (w : Byte) (s : State) : (addWithCarry w s).dispatcher = s.dispatcher := rfl
@[simp] theorem addWithCarry_port (w : Byte) (s : State) : (addWithCarry w s).port = s.port := rfl

/-! ### `beginStep` -/

@[simp] theorem beginStep_a (s : State) : (beginStep s).a = s.a := rfl
@[simp] theorem beginStep_x (s : State) : (beginStep s).x = s.x := rfl
@[simp] theorem beginStep_y (s : State) : (beginStep s).y = s.y := rfl
@[simp] theorem beginStep_pc (s : State) : (beginStep s).pc = s.pc := rfl
@[simp] theorem beginStep_sp (s : State) : (beginStep s).sp = s.sp := rfl
@[simp] theorem beginStep_n (s : State) : (beginStep s).n = s.n := rfl
@[simp] theorem beginStep_v (s : State) : (beginStep s).v = s.v := rfl
@[simp] theorem beginStep_b (s : State) : (beginStep s).b = s.b := rfl
@[simp] theorem beginStep_d (s : State) : (beginStep s).d = s.d := rfl
@[simp] theorem beginStep_i (s : State) : (beginStep s).i = s.i := rfl
@[simp] theorem beginStep_z (s : State) : (beginStep s).z = s.z := rfl
@[simp] theorem beginStep_c (s : State) : (beginStep s).c = s.c := rfl
@[simp] theorem beginStep_mem (s : State) : (beginStep s).mem = s.mem := rfl
@[simp] theorem beginStep_cyc (s : State) : (beginStep s).cyc = 0 := rfl
@[simp] theorem beginStep_dispatcher (s : State) : (beginStep s).dispatcher = .fetching := rfl
@[simp] theorem beginStep_port (s : State) : (beginStep s).port = [] := rfl

/-! ### `enter` -/

@[simp] theorem enter_a (e : Dispatcher) (s : State) : (enter e s).a = s.a := rfl
@[simp] theorem enter_x (e : Dispatcher) (s : State) : (enter e s).x = s.x := rfl
@[simp] theorem enter_y (e : Dispatcher) (s : State) : (enter e s).y = s.y := rfl
@[simp] theorem enter_pc (e : Dispatcher) (s : State) : (enter e s).pc = s.pc := rfl
@[simp] theorem enter_sp (e : Dispatcher) (s : State) : (enter e s).sp = s.sp := rfl
@[simp] theorem enter_n (e : Dispatcher) (s : State) : (enter e s).n = s.n := rfl
@[simp] theorem enter_v (e : Dispatcher) (s : State) : (enter e s).v = s.v := rfl
@[simp] theorem enter_b (e : Dispatcher) (s : State) : (enter e s).b = s.b := rfl
@[simp] theorem enter_d (e : Dispatcher) (s : State) : (enter e s).d = s.d := rfl
@[simp] theorem enter_i (e : Dispatcher) (s : State) : (enter e s).i = s.i := rfl
@[simp] theorem enter_z (e : Dispatcher) (s : State) : (enter e s).z = s.z := rfl
@[simp] theorem enter_c (e : Dispatcher) (s : State) : (enter e s).c = s.c := rfl
@[simp] theorem enter_mem (e : Dispatcher) (s : State) : (enter e s).mem = s.mem := rfl
@[simp] theorem enter_cyc (e : Dispatcher) (s : State) : (enter e s).cyc = s.cyc := rfl
@[simp] theorem enter_dispatcher (e : Dispatcher) (s : State) : (enter e s).dispatcher = e := rfl
@[simp] theorem enter_port (e : Dispatcher) (s : State) : (enter e s).port = s.port := rfl

/-! ### `setReg`: everything but the general registers -/

@[simp] theorem setReg_pc (s : State) (r : Reg) (w : Byte) : (s.setReg r w).pc = s.pc := by cases r <;> rfl
@[simp] theorem setReg_sp (s : State) (r : Reg) (w : Byte) : (s.setReg r w).sp = s.sp := by cases r <;> rfl
@[simp] theorem setReg_n (s : State) (r : Reg) (w : Byte) : (s.setReg r w).n = s.n := by cases r <;> rfl
@[simp] theorem setReg_v (s : State) (r : Reg) (w : Byte) : (s.setReg r w).v = s.v := by cases r <;> rfl
@[simp] theorem setReg_b (s : State) (r : Reg) (w : Byte) : (s.setReg r w).b = s.b := by cases r <;> rfl
@[simp] theorem setReg_d (s : State) (r : Reg) (w : Byte) : (s.setReg r w).d = s.d := by cases r <;> rfl
@[simp] theorem setReg_i (s : State) (r : Reg) (w : Byte) : (s.setReg r w).i = s.i := by cases r <;> rfl
@[simp] theorem setReg_z (s : State) (r : Reg) (w : Byte) : (s.setReg r w).z = s.z := by cases r <;> rfl
@[simp] theorem setReg_c (s : State) (r : Reg) (w : Byte) : (s.setReg r w).c = s.c := by cases r <;> rfl
@[simp] theorem setReg_mem (s : State) (r : Reg) (w : Byte) : (s.setReg r w).mem = s.mem := by cases r <;> rfl
@[simp] theorem setReg_cyc (s : State) (r : Reg) (w : Byte) : (s.setReg r w).cyc = s.cyc := by cases r <;> rfl
@[simp] theorem setReg_dispatcher (s : State) (r : Reg) (w : Byte) : (s.setReg r w).dispatcher = s.dispatcher := by cases r <;> rfl
@[simp] theorem setReg_port (s : State) (r : Reg) (w : Byte) : (s.setReg r w).port = s.port := by cases r <;> rfl

/-! ### The register accessors (R8) -/

@[simp] theorem reg_setReg_same (s : State) (r : Reg) (w : Byte) : (s.setReg r w).reg r = w := by
  cases r <;> rfl

theorem reg_setReg_other (s : State) {r r' : Reg} (h : r' ≠ r) (w : Byte) :
    (s.setReg r w).reg r' = s.reg r' := by
  cases r <;> cases r' <;> first | rfl | exact absurd rfl h

@[simp] theorem reg_a (s : State) : s.reg .a = s.a := rfl
@[simp] theorem reg_x (s : State) : s.reg .x = s.x := rfl
@[simp] theorem reg_y (s : State) : s.reg .y = s.y := rfl

@[simp] theorem reg_tick (op : BusOp) (s : State) (r : Reg) : (tick op s).reg r = s.reg r := by
  cases r <;> rfl

@[simp] theorem reg_setCell (s : State) (q : Addr) (w : Byte) (r : Reg) : (s.setCell q w).reg r = s.reg r := by
  cases r <;> rfl

@[simp] theorem reg_updateNZ (w : Byte) (s : State) (r : Reg) : (updateNZ w s).reg r = s.reg r := by
  cases r <;> rfl

end Sys2Proof.Machine
end

