-- ==== Sys2Proof/Laws/Memory.lean ====
section
/-! SUPPORT. Memory as data: a read after a write, every operation keeps the canonical form, and memories
in that form that hold the same cells are the same list. -/

namespace Sys2Proof.Machine

theorem memGet_memSet_same (m : Memory) (a : Nat) (v : Byte) : memGet (memSet m a v) a = some v := by
  induction m with
  | nil => simp [memSet, memGet]
  | cons cell rest ih =>
    obtain ⟨k, w⟩ := cell
    by_cases h1 : a < k
    · simp [memSet, memGet, h1]
    · by_cases h2 : a = k
      · simp [memSet, memGet, h2]
      · simp [memSet, memGet, h1, h2, Ne.symm h2, ih]

theorem memGet_memSet_other (m : Memory) {a a' : Nat} (h : a' ≠ a) (v : Byte) :
    memGet (memSet m a v) a' = memGet m a' := by
  induction m with
  | nil => simp [memSet, memGet, Ne.symm h]
  | cons cell rest ih =>
    obtain ⟨k, w⟩ := cell
    by_cases h1 : a < k
    · simp [memSet, memGet, h1, Ne.symm h]
    · by_cases h2 : a = k
      · subst h2
        simp [memSet, memGet, Ne.symm h]
      · simp only [memSet, h1, h2, if_false, memGet, ih]

/-! ### The canonical form -/

theorem memRisesFrom_cons (lo k : Nat) (w : Byte) (rest : Memory) :
    memRisesFrom lo ((k, w) :: rest) = true ↔ lo ≤ k ∧ k < 65536 ∧ memRisesFrom (k + 1) rest = true := by
  simp [memRisesFrom, and_assoc]

theorem memRisesFrom_memSet (m : Memory) (lo a : Nat) (v : Byte) (hm : memRisesFrom lo m = true)
    (hlo : lo ≤ a) (ha : a < 65536) : memRisesFrom lo (memSet m a v) = true := by
  induction m generalizing lo with
  | nil => simp [memSet, memRisesFrom, hlo, ha]
  | cons cell rest ih =>
    obtain ⟨k, w⟩ := cell
    rw [memRisesFrom_cons] at hm
    obtain ⟨hk, hk', hr⟩ := hm
    by_cases h1 : a < k
    · simp only [memSet, h1, if_true, memRisesFrom_cons]
      exact ⟨hlo, ha, by omega, hk', hr⟩
    · by_cases h2 : a = k
      · subst h2
        simp only [memSet, h1, if_false, if_true, memRisesFrom_cons]
        exact ⟨hlo, ha, hr⟩
      · simp only [memSet, h1, h2, if_false, memRisesFrom_cons]
        exact ⟨hk, hk', ih (k + 1) hr (by omega)⟩

/-- A write keeps the canonical form. -/
theorem memSet_wf (m : Memory) (a : Addr) (v : Byte) (hm : m.wf = true) :
    Memory.wf (memSet m a.toNat v) = true :=
  memRisesFrom_memSet m 0 a.toNat v hm (Nat.zero_le _) a.isLt

theorem setCell_wf (s : State) (a : Addr) (v : Byte) (h : s.mem.wf = true) : (s.setCell a v).mem.wf = true :=
  memSet_wf s.mem a v h

theorem storeBytes_wf (bytes : List Byte) (s : State) (a : Addr) (h : s.mem.wf = true) :
    (s.storeBytes a bytes).mem.wf = true := by
  induction bytes generalizing s a with
  | nil => exact h
  | cons v rest ih => exact ih _ _ (setCell_wf s a v h)

theorem reset_wf : State.reset.mem.wf = true := rfl

/-- Below the first address of a rising list nothing is listed. -/
theorem memGet_below (m : Memory) (lo a : Nat) (hm : memRisesFrom lo m = true) (h : a < lo) :
    memGet m a = none := by
  induction m generalizing lo with
  | nil => rfl
  | cons cell rest ih =>
    obtain ⟨k, w⟩ := cell
    rw [memRisesFrom_cons] at hm
    have hk : k ≠ a := by omega
    simp [memGet, hk, ih (k + 1) hm.2.2 (by omega)]

theorem memRisesFrom_ext (m m' : Memory) (lo : Nat) (hm : memRisesFrom lo m = true)
    (hm' : memRisesFrom lo m' = true) (h : ∀ a, memGet m a = memGet m' a) : m = m' := by
  induction m generalizing m' lo with
  | nil =>
    cases m' with
    | nil => rfl
    | cons cell rest => simpa [memGet] using h cell.1
  | cons cell rest ih =>
    obtain ⟨k, w⟩ := cell
    cases m' with
    | nil => simpa [memGet] using h k
    | cons cell' rest' =>
      obtain ⟨k', w'⟩ := cell'
      rw [memRisesFrom_cons] at hm hm'
      have hk : k = k' := by
        rcases Nat.lt_trichotomy k k' with hlt | heq | hgt
        · have := h k
          rw [memGet_below ((k', w') :: rest') k' k ((memRisesFrom_cons _ _ _ _).2
            ⟨Nat.le_refl _, hm'.2.1, hm'.2.2⟩) hlt] at this
          simp [memGet] at this
        · exact heq
        · have := h k'
          rw [memGet_below ((k, w) :: rest) k k' ((memRisesFrom_cons _ _ _ _).2
            ⟨Nat.le_refl _, hm.2.1, hm.2.2⟩) hgt] at this
          simp [memGet] at this
      subst hk
      have hw : w = w' := by simpa [memGet] using h k
      subst hw
      have hrest : rest = rest' := by
        refine ih rest' (k + 1) hm.2.2 hm'.2.2 fun a => ?_
        by_cases ha : k = a
        · rw [memGet_below rest (k + 1) a hm.2.2 (by omega), memGet_below rest' (k + 1) a hm'.2.2 (by omega)]
        · simpa [memGet, ha] using h a
      rw [hrest]

/-- Nothing is listed from 65536 on. -/
theorem memGet_above (m : Memory) (lo a : Nat) (hm : memRisesFrom lo m = true) (h : 65536 ≤ a) :
    memGet m a = none := by
  induction m generalizing lo with
  | nil => rfl
  | cons cell rest ih =>
    obtain ⟨k, w⟩ := cell
    rw [memRisesFrom_cons] at hm
    have hk : k ≠ a := by omega
    simp [memGet, hk, ih (k + 1) hm.2.2]

/-! ### Cells -/

@[simp] theorem cell_setCell_same (s : State) (a : Addr) (v : Byte) : (s.setCell a v).cell a = v := by
  simp [State.cell, State.setCell, memGet_memSet_same]

theorem cell_setCell_other (s : State) {a a' : Addr} (h : a' ≠ a) (v : Byte) :
    (s.setCell a v).cell a' = s.cell a' := by
  have hn : a'.toNat ≠ a.toNat := fun e => h (BitVec.eq_of_toNat_eq e)
  simp [State.cell, State.setCell, memGet_memSet_other s.mem hn]

/-- A cell depends on memory alone. -/
theorem cell_of_mem_eq {s t : State} (h : t.mem = s.mem) (a : Addr) : t.cell a = s.cell a := by
  simp [State.cell, h]

@[simp] theorem cell_tick (op : BusOp) (s : State) (a : Addr) : (tick op s).cell a = s.cell a := rfl
@[simp] theorem cell_updateNZ (w : Byte) (s : State) (a : Addr) : (updateNZ w s).cell a = s.cell a := rfl
@[simp] theorem cell_addWithCarry (w : Byte) (s : State) (a : Addr) : (addWithCarry w s).cell a = s.cell a := rfl
@[simp] theorem cell_beginStep (s : State) (a : Addr) : (beginStep s).cell a = s.cell a := rfl
@[simp] theorem cell_enter (d : Dispatcher) (s : State) (a : Addr) : (enter d s).cell a = s.cell a := rfl
@[simp] theorem cell_setReg (s : State) (r : Reg) (w : Byte) (a : Addr) : (s.setReg r w).cell a = s.cell a := by
  cases r <;> rfl

end Sys2Proof.Machine
end

