-- ==== Sys2Proof/Laws/Ops.lean ====
section
/-! SUPPORT. One lemma per shared operation over the port and the registers: what it answers, in terms of
`afterOps`, the state after a list of cycles. -/

namespace Sys2Proof.Machine

/-! ### `afterOps` -/

@[simp] theorem afterOps_a (ops : List BusOp) (s : State) : (afterOps ops s).a = s.a := rfl
@[simp] theorem afterOps_x (ops : List BusOp) (s : State) : (afterOps ops s).x = s.x := rfl
@[simp] theorem afterOps_y (ops : List BusOp) (s : State) : (afterOps ops s).y = s.y := rfl
@[simp] theorem afterOps_pc (ops : List BusOp) (s : State) : (afterOps ops s).pc = s.pc := rfl
@[simp] theorem afterOps_sp (ops : List BusOp) (s : State) : (afterOps ops s).sp = s.sp := rfl
@[simp] theorem afterOps_n (ops : List BusOp) (s : State) : (afterOps ops s).n = s.n := rfl
@[simp] theorem afterOps_v (ops : List BusOp) (s : State) : (afterOps ops s).v = s.v := rfl
@[simp] theorem afterOps_b (ops : List BusOp) (s : State) : (afterOps ops s).b = s.b := rfl
@[simp] theorem afterOps_d (ops : List BusOp) (s : State) : (afterOps ops s).d = s.d := rfl
@[simp] theorem afterOps_i (ops : List BusOp) (s : State) : (afterOps ops s).i = s.i := rfl
@[simp] theorem afterOps_z (ops : List BusOp) (s : State) : (afterOps ops s).z = s.z := rfl
@[simp] theorem afterOps_c (ops : List BusOp) (s : State) : (afterOps ops s).c = s.c := rfl
@[simp] theorem afterOps_mem (ops : List BusOp) (s : State) : (afterOps ops s).mem = s.mem := rfl
@[simp] theorem afterOps_dispatcher (ops : List BusOp) (s : State) :
    (afterOps ops s).dispatcher = s.dispatcher := rfl
@[simp] theorem afterOps_cyc (ops : List BusOp) (s : State) :
    (afterOps ops s).cyc = s.cyc + BitVec.ofNat 8 ops.length := rfl
@[simp] theorem afterOps_port (ops : List BusOp) (s : State) : (afterOps ops s).port = s.port ++ ops := rfl
@[simp] theorem cell_afterOps (ops : List BusOp) (s : State) (q : Addr) :
    (afterOps ops s).cell q = s.cell q := rfl
@[simp] theorem reg_afterOps (ops : List BusOp) (s : State) (r : Reg) : (afterOps ops s).reg r = s.reg r := by
  cases r <;> rfl

@[simp] theorem afterOps_nil (s : State) : afterOps [] s = s := by simp [afterOps]

theorem afterOps_afterOps (first second : List BusOp) (s : State) :
    afterOps second (afterOps first s) = afterOps (first ++ second) s := by
  simp [afterOps, BitVec.add_assoc, BitVec.ofNat_add, List.append_assoc]

theorem afterOps_setCell (ops : List BusOp) (s : State) (q : Addr) (w : Byte) :
    (afterOps ops s).setCell q w = afterOps ops (s.setCell q w) := rfl

/-! ### The primitives (R31 to R34) -/

theorem tick_eq (op : BusOp) (s : State) : tick op s = afterOps [op] s := rfl

theorem memRead_fst (q : Addr) (s : State) : (memRead q s).1 = s.cell q := rfl
theorem memRead_snd (q : Addr) (s : State) : (memRead q s).2 = afterOps [.read q (s.cell q)] s := rfl

theorem memWrite_fst (q : Addr) (w : Byte) (s : State) : (memWrite q w s).1 = w := rfl
theorem memWrite_snd (q : Addr) (w : Byte) (s : State) :
    (memWrite q w s).2 = afterOps [.write q w] (s.setCell q w) := rfl

theorem idle_eq (s : State) : idle s = afterOps [.idle] s := rfl

theorem idleIf_eq (k : Bool) (s : State) : idleIf k s = afterOps (idleOps k) s := by
  cases k
  · simp [idleIf, idleOps]
  · rfl

theorem fetch_fst (s : State) : (fetch s).1 = s.cell s.pc := rfl
theorem fetch_snd (s : State) :
    (fetch s).2 = { afterOps [.read s.pc (s.cell s.pc)] s with pc := s.pc + 1 } := rfl

/-! ### The resolver (R74): it writes `Cyc` and the port, and nothing else -/

theorem readPointer_snd (q : Byte) (s : State) : (readPointer q s).2 = afterOps (pointerOps q s) s := by
  simp [readPointer, memRead_snd, afterOps_afterOps, pointerOps]

theorem resolve_snd_afterOps (m : MemOperand) (s : State) : ∃ ops, (resolve m s).2 = afterOps ops s := by
  cases m with
  | zp nn => exact ⟨[], by simp [resolve]⟩
  | abs hhll => exact ⟨[], by simp [resolve]⟩
  | zpx nn => exact ⟨_, idle_eq s⟩
  | zpy nn => exact ⟨_, idle_eq s⟩
  | abx hhll => exact ⟨_, idleIf_eq _ s⟩
  | aby hhll => exact ⟨_, idleIf_eq _ s⟩
  | izx nn =>
    refine ⟨[.idle] ++ pointerOps (nn + s.x) (idle s), ?_⟩
    simp only [resolve, readPointer_snd, idle_eq, afterOps_afterOps]
  | izy nn =>
    refine ⟨pointerOps nn s ++ idleOps (pageCross (readPointer nn s).1 (indexed (readPointer nn s).1 s.y)), ?_⟩
    simp only [resolve, resolveIndexed, readPointer_snd, idleIf_eq, afterOps_afterOps]

/-- What a resolved address leaves of the cells and registers: all of them. -/
theorem resolve_cell (m : MemOperand) (s : State) (q : Addr) : (resolve m s).2.cell q = s.cell q := by
  obtain ⟨ops, h⟩ := resolve_snd_afterOps m s
  rw [h, cell_afterOps]

theorem resolve_reg (m : MemOperand) (s : State) (r : Reg) : (resolve m s).2.reg r = s.reg r := by
  obtain ⟨ops, h⟩ := resolve_snd_afterOps m s
  rw [h, reg_afterOps]

theorem operandMem_fst (m : MemOperand) (s : State) : (operandMem m s).1 = s.cell (resolve m s).1 := by
  rw [operandMem, memRead_fst, resolve_cell]

end Sys2Proof.Machine
end

