-- ==== Sys2Proof/Laws/Exec.lean ====
section
/-! SUPPORT. What `exec` calls for each output of the decode stage (R54): one lemma per family, so that
a proof about a family never splits the 79 arms again. -/

namespace Sys2Proof.Machine

theorem exec_loadImm {i : Instr} {r : Reg} {v : Byte} (h : i.control = .loadImm r v) (s : State) :
    exec i s = .next (loadImm Config.immHandlerCycle r v s) := by
  cases i <;> cases h <;> rfl

theorem exec_loadMem {i : Instr} {r : Reg} {m : MemOperand} (h : i.control = .loadMem r m) (s : State) :
    exec i s = .next (loadMem r m s) := by
  cases i <;> cases h <;> rfl

theorem exec_store {i : Instr} {r : Reg} {m : MemOperand} (h : i.control = .store r m) (s : State) :
    exec i s = .next (store r m s) := by
  cases i <;> cases h <;> rfl

theorem exec_addImm {i : Instr} {v : Byte} (h : i.control = .addImm v) (s : State) :
    exec i s = .next (addImm Config.immHandlerCycle v s) := by
  cases i <;> cases h
  rfl

theorem exec_addMem {i : Instr} {m : MemOperand} (h : i.control = .addMem m) (s : State) :
    exec i s = .next (addMem m s) := by
  cases i <;> cases h <;> rfl

theorem exec_subImm {i : Instr} {v : Byte} (h : i.control = .subImm v) (s : State) :
    exec i s = .next (subImm Config.immHandlerCycle v s) := by
  cases i <;> cases h
  rfl

theorem exec_subMem {i : Instr} {m : MemOperand} (h : i.control = .subMem m) (s : State) :
    exec i s = .next (subMem m s) := by
  cases i <;> cases h <;> rfl

theorem exec_stepMem {i : Instr} {δ : Delta} {m : MemOperand} (h : i.control = .stepMem δ m) (s : State) :
    exec i s = .next (stepMem Config.rmwExtraCycle δ m s) := by
  cases i <;> cases h <;> rfl

theorem exec_stepReg {i : Instr} {r : Reg} {δ : Delta} (h : i.control = .stepReg r δ) (s : State) :
    exec i s = .next (stepReg r δ s) := by
  cases i <;> cases h <;> rfl

theorem exec_shiftAcc {i : Instr} {op : ShiftOp} (h : i.control = .shiftAcc op) (s : State) :
    exec i s = .next (shiftAcc op s) := by
  cases i <;> cases h <;> rfl

theorem exec_shiftMem {i : Instr} {op : ShiftOp} {m : MemOperand} (h : i.control = .shiftMem op m) (s : State) :
    exec i s = .next (shiftMem op m s) := by
  cases i <;> cases h <;> rfl

end Sys2Proof.Machine
end

