-- ==== Sys2Proof/Laws/PerInstr.lean ====
section
/-! SUPPORT. Statements made per instruction, one lemma per constructor (LAWS.json): `Legal`, the
instruction passes the well-formedness check, and `Sized`, its encoding has the length of its mode. -/

namespace Sys2Proof.Laws.Legal

/-- The instruction passes `Instr.wf`: its pair is in the matrix of R55 and its operand fits its format (R51, R58). -/
def Statement (i : Instr) : Prop := i.wf = true

theorem ldaImm (v : Byte) : Statement (.ldaImm v) := wf_of_pair _ rfl (operand_lt _)
theorem ldaZp (nn : Byte) : Statement (.ldaZp nn) := wf_of_pair _ rfl (operand_lt _)
theorem ldaZpx (nn : Byte) : Statement (.ldaZpx nn) := wf_of_pair _ rfl (operand_lt _)
theorem ldaAbs (hhll : Addr) : Statement (.ldaAbs hhll) := wf_of_pair _ rfl (operand_lt _)
theorem ldaAbx (hhll : Addr) : Statement (.ldaAbx hhll) := wf_of_pair _ rfl (operand_lt _)
theorem ldaAby (hhll : Addr) : Statement (.ldaAby hhll) := wf_of_pair _ rfl (operand_lt _)
theorem ldaIzx (nn : Byte) : Statement (.ldaIzx nn) := wf_of_pair _ rfl (operand_lt _)
theorem ldaIzy (nn : Byte) : Statement (.ldaIzy nn) := wf_of_pair _ rfl (operand_lt _)
theorem ldxImm (v : Byte) : Statement (.ldxImm v) := wf_of_pair _ rfl (operand_lt _)
theorem ldxZp (nn : Byte) : Statement (.ldxZp nn) := wf_of_pair _ rfl (operand_lt _)
theorem ldxZpy (nn : Byte) : Statement (.ldxZpy nn) := wf_of_pair _ rfl (operand_lt _)
theorem ldxAbs (hhll : Addr) : Statement (.ldxAbs hhll) := wf_of_pair _ rfl (operand_lt _)
theorem ldxAby (hhll : Addr) : Statement (.ldxAby hhll) := wf_of_pair _ rfl (operand_lt _)
theorem ldyImm (v : Byte) : Statement (.ldyImm v) := wf_of_pair _ rfl (operand_lt _)
theorem ldyZp (nn : Byte) : Statement (.ldyZp nn) := wf_of_pair _ rfl (operand_lt _)
theorem ldyZpx (nn : Byte) : Statement (.ldyZpx nn) := wf_of_pair _ rfl (operand_lt _)
theorem ldyAbs (hhll : Addr) : Statement (.ldyAbs hhll) := wf_of_pair _ rfl (operand_lt _)
theorem ldyAbx (hhll : Addr) : Statement (.ldyAbx hhll) := wf_of_pair _ rfl (operand_lt _)
theorem staZp (nn : Byte) : Statement (.staZp nn) := wf_of_pair _ rfl (operand_lt _)
theorem staZpx (nn : Byte) : Statement (.staZpx nn) := wf_of_pair _ rfl (operand_lt _)
theorem staAbs (hhll : Addr) : Statement (.staAbs hhll) := wf_of_pair _ rfl (operand_lt _)
theorem staAbx (hhll : Addr) : Statement (.staAbx hhll) := wf_of_pair _ rfl (operand_lt _)
theorem staAby (hhll : Addr) : Statement (.staAby hhll) := wf_of_pair _ rfl (operand_lt _)
theorem staIzx (nn : Byte) : Statement (.staIzx nn) := wf_of_pair _ rfl (operand_lt _)
theorem staIzy (nn : Byte) : Statement (.staIzy nn) := wf_of_pair _ rfl (operand_lt _)
theorem stxZp (nn : Byte) : Statement (.stxZp nn) := wf_of_pair _ rfl (operand_lt _)
theorem stxZpy (nn : Byte) : Statement (.stxZpy nn) := wf_of_pair _ rfl (operand_lt _)
theorem stxAbs (hhll : Addr) : Statement (.stxAbs hhll) := wf_of_pair _ rfl (operand_lt _)
theorem styZp (nn : Byte) : Statement (.styZp nn) := wf_of_pair _ rfl (operand_lt _)
theorem styZpx (nn : Byte) : Statement (.styZpx nn) := wf_of_pair _ rfl (operand_lt _)
theorem styAbs (hhll : Addr) : Statement (.styAbs hhll) := wf_of_pair _ rfl (operand_lt _)
theorem adcImm (v : Byte) : Statement (.adcImm v) := wf_of_pair _ rfl (operand_lt _)
theorem adcZp (nn : Byte) : Statement (.adcZp nn) := wf_of_pair _ rfl (operand_lt _)
theorem adcZpx (nn : Byte) : Statement (.adcZpx nn) := wf_of_pair _ rfl (operand_lt _)
theorem adcAbs (hhll : Addr) : Statement (.adcAbs hhll) := wf_of_pair _ rfl (operand_lt _)
theorem adcAbx (hhll : Addr) : Statement (.adcAbx hhll) := wf_of_pair _ rfl (operand_lt _)
theorem adcAby (hhll : Addr) : Statement (.adcAby hhll) := wf_of_pair _ rfl (operand_lt _)
theorem adcIzx (nn : Byte) : Statement (.adcIzx nn) := wf_of_pair _ rfl (operand_lt _)
theorem adcIzy (nn : Byte) : Statement (.adcIzy nn) := wf_of_pair _ rfl (operand_lt _)
theorem sbcImm (v : Byte) : Statement (.sbcImm v) := wf_of_pair _ rfl (operand_lt _)
theorem sbcZp (nn : Byte) : Statement (.sbcZp nn) := wf_of_pair _ rfl (operand_lt _)
theorem sbcZpx (nn : Byte) : Statement (.sbcZpx nn) := wf_of_pair _ rfl (operand_lt _)
theorem sbcAbs (hhll : Addr) : Statement (.sbcAbs hhll) := wf_of_pair _ rfl (operand_lt _)
theorem sbcAbx (hhll : Addr) : Statement (.sbcAbx hhll) := wf_of_pair _ rfl (operand_lt _)
theorem sbcAby (hhll : Addr) : Statement (.sbcAby hhll) := wf_of_pair _ rfl (operand_lt _)
theorem sbcIzx (nn : Byte) : Statement (.sbcIzx nn) := wf_of_pair _ rfl (operand_lt _)
theorem sbcIzy (nn : Byte) : Statement (.sbcIzy nn) := wf_of_pair _ rfl (operand_lt _)
theorem incZp (nn : Byte) : Statement (.incZp nn) := wf_of_pair _ rfl (operand_lt _)
theorem incZpx (nn : Byte) : Statement (.incZpx nn) := wf_of_pair _ rfl (operand_lt _)
theorem incAbs (hhll : Addr) : Statement (.incAbs hhll) := wf_of_pair _ rfl (operand_lt _)
theorem incAbx (hhll : Addr) : Statement (.incAbx hhll) := wf_of_pair _ rfl (operand_lt _)
theorem decZp (nn : Byte) : Statement (.decZp nn) := wf_of_pair _ rfl (operand_lt _)
theorem decZpx (nn : Byte) : Statement (.decZpx nn) := wf_of_pair _ rfl (operand_lt _)
theorem decAbs (hhll : Addr) : Statement (.decAbs hhll) := wf_of_pair _ rfl (operand_lt _)
theorem decAbx (hhll : Addr) : Statement (.decAbx hhll) := wf_of_pair _ rfl (operand_lt _)
theorem inx : Statement (.inx) := wf_of_pair _ rfl (operand_lt _)
theorem iny : Statement (.iny) := wf_of_pair _ rfl (operand_lt _)
theorem dex : Statement (.dex) := wf_of_pair _ rfl (operand_lt _)
theorem dey : Statement (.dey) := wf_of_pair _ rfl (operand_lt _)
theorem aslAcc : Statement (.aslAcc) := wf_of_pair _ rfl (operand_lt _)
theorem aslZp (nn : Byte) : Statement (.aslZp nn) := wf_of_pair _ rfl (operand_lt _)
theorem aslZpx (nn : Byte) : Statement (.aslZpx nn) := wf_of_pair _ rfl (operand_lt _)
theorem aslAbs (hhll : Addr) : Statement (.aslAbs hhll) := wf_of_pair _ rfl (operand_lt _)
theorem aslAbx (hhll : Addr) : Statement (.aslAbx hhll) := wf_of_pair _ rfl (operand_lt _)
theorem lsrAcc : Statement (.lsrAcc) := wf_of_pair _ rfl (operand_lt _)
theorem lsrZp (nn : Byte) : Statement (.lsrZp nn) := wf_of_pair _ rfl (operand_lt _)
theorem lsrZpx (nn : Byte) : Statement (.lsrZpx nn) := wf_of_pair _ rfl (operand_lt _)
theorem lsrAbs (hhll : Addr) : Statement (.lsrAbs hhll) := wf_of_pair _ rfl (operand_lt _)
theorem lsrAbx (hhll : Addr) : Statement (.lsrAbx hhll) := wf_of_pair _ rfl (operand_lt _)
theorem rolAcc : Statement (.rolAcc) := wf_of_pair _ rfl (operand_lt _)
theorem rolZp (nn : Byte) : Statement (.rolZp nn) := wf_of_pair _ rfl (operand_lt _)
theorem rolZpx (nn : Byte) : Statement (.rolZpx nn) := wf_of_pair _ rfl (operand_lt _)
theorem rolAbs (hhll : Addr) : Statement (.rolAbs hhll) := wf_of_pair _ rfl (operand_lt _)
theorem rolAbx (hhll : Addr) : Statement (.rolAbx hhll) := wf_of_pair _ rfl (operand_lt _)
theorem rorAcc : Statement (.rorAcc) := wf_of_pair _ rfl (operand_lt _)
theorem rorZp (nn : Byte) : Statement (.rorZp nn) := wf_of_pair _ rfl (operand_lt _)
theorem rorZpx (nn : Byte) : Statement (.rorZpx nn) := wf_of_pair _ rfl (operand_lt _)
theorem rorAbs (hhll : Addr) : Statement (.rorAbs hhll) := wf_of_pair _ rfl (operand_lt _)
theorem rorAbx (hhll : Addr) : Statement (.rorAbx hhll) := wf_of_pair _ rfl (operand_lt _)

end Sys2Proof.Laws.Legal

namespace Sys2Proof.Laws.Sized

/-- The encoding has as many bytes as the mode fixes (R50). -/
def Statement (i : Instr) : Prop := (encode i).length = i.length

theorem ldaImm (v : Byte) : Statement (.ldaImm v) := rfl
theorem ldaZp (nn : Byte) : Statement (.ldaZp nn) := rfl
theorem ldaZpx (nn : Byte) : Statement (.ldaZpx nn) := rfl
theorem ldaAbs (hhll : Addr) : Statement (.ldaAbs hhll) := rfl
theorem ldaAbx (hhll : Addr) : Statement (.ldaAbx hhll) := rfl
theorem ldaAby (hhll : Addr) : Statement (.ldaAby hhll) := rfl
theorem ldaIzx (nn : Byte) : Statement (.ldaIzx nn) := rfl
theorem ldaIzy (nn : Byte) : Statement (.ldaIzy nn) := rfl
theorem ldxImm (v : Byte) : Statement (.ldxImm v) := rfl
theorem ldxZp (nn : Byte) : Statement (.ldxZp nn) := rfl
theorem ldxZpy (nn : Byte) : Statement (.ldxZpy nn) := rfl
theorem ldxAbs (hhll : Addr) : Statement (.ldxAbs hhll) := rfl
theorem ldxAby (hhll : Addr) : Statement (.ldxAby hhll) := rfl
theorem ldyImm (v : Byte) : Statement (.ldyImm v) := rfl
theorem ldyZp (nn : Byte) : Statement (.ldyZp nn) := rfl
theorem ldyZpx (nn : Byte) : Statement (.ldyZpx nn) := rfl
theorem ldyAbs (hhll : Addr) : Statement (.ldyAbs hhll) := rfl
theorem ldyAbx (hhll : Addr) : Statement (.ldyAbx hhll) := rfl
theorem staZp (nn : Byte) : Statement (.staZp nn) := rfl
theorem staZpx (nn : Byte) : Statement (.staZpx nn) := rfl
theorem staAbs (hhll : Addr) : Statement (.staAbs hhll) := rfl
theorem staAbx (hhll : Addr) : Statement (.staAbx hhll) := rfl
theorem staAby (hhll : Addr) : Statement (.staAby hhll) := rfl
theorem staIzx (nn : Byte) : Statement (.staIzx nn) := rfl
theorem staIzy (nn : Byte) : Statement (.staIzy nn) := rfl
theorem stxZp (nn : Byte) : Statement (.stxZp nn) := rfl
theorem stxZpy (nn : Byte) : Statement (.stxZpy nn) := rfl
theorem stxAbs (hhll : Addr) : Statement (.stxAbs hhll) := rfl
theorem styZp (nn : Byte) : Statement (.styZp nn) := rfl
theorem styZpx (nn : Byte) : Statement (.styZpx nn) := rfl
theorem styAbs (hhll : Addr) : Statement (.styAbs hhll) := rfl
theorem adcImm (v : Byte) : Statement (.adcImm v) := rfl
theorem adcZp (nn : Byte) : Statement (.adcZp nn) := rfl
theorem adcZpx (nn : Byte) : Statement (.adcZpx nn) := rfl
theorem adcAbs (hhll : Addr) : Statement (.adcAbs hhll) := rfl
theorem adcAbx (hhll : Addr) : Statement (.adcAbx hhll) := rfl
theorem adcAby (hhll : Addr) : Statement (.adcAby hhll) := rfl
theorem adcIzx (nn : Byte) : Statement (.adcIzx nn) := rfl
theorem adcIzy (nn : Byte) : Statement (.adcIzy nn) := rfl
theorem sbcImm (v : Byte) : Statement (.sbcImm v) := rfl
theorem sbcZp (nn : Byte) : Statement (.sbcZp nn) := rfl
theorem sbcZpx (nn : Byte) : Statement (.sbcZpx nn) := rfl
theorem sbcAbs (hhll : Addr) : Statement (.sbcAbs hhll) := rfl
theorem sbcAbx (hhll : Addr) : Statement (.sbcAbx hhll) := rfl
theorem sbcAby (hhll : Addr) : Statement (.sbcAby hhll) := rfl
theorem sbcIzx (nn : Byte) : Statement (.sbcIzx nn) := rfl
theorem sbcIzy (nn : Byte) : Statement (.sbcIzy nn) := rfl
theorem incZp (nn : Byte) : Statement (.incZp nn) := rfl
theorem incZpx (nn : Byte) : Statement (.incZpx nn) := rfl
theorem incAbs (hhll : Addr) : Statement (.incAbs hhll) := rfl
theorem incAbx (hhll : Addr) : Statement (.incAbx hhll) := rfl
theorem decZp (nn : Byte) : Statement (.decZp nn) := rfl
theorem decZpx (nn : Byte) : Statement (.decZpx nn) := rfl
theorem decAbs (hhll : Addr) : Statement (.decAbs hhll) := rfl
theorem decAbx (hhll : Addr) : Statement (.decAbx hhll) := rfl
theorem inx : Statement (.inx) := rfl
theorem iny : Statement (.iny) := rfl
theorem dex : Statement (.dex) := rfl
theorem dey : Statement (.dey) := rfl
theorem aslAcc : Statement (.aslAcc) := rfl
theorem aslZp (nn : Byte) : Statement (.aslZp nn) := rfl
theorem aslZpx (nn : Byte) : Statement (.aslZpx nn) := rfl
theorem aslAbs (hhll : Addr) : Statement (.aslAbs hhll) := rfl
theorem aslAbx (hhll : Addr) : Statement (.aslAbx hhll) := rfl
theorem lsrAcc : Statement (.lsrAcc) := rfl
theorem lsrZp (nn : Byte) : Statement (.lsrZp nn) := rfl
theorem lsrZpx (nn : Byte) : Statement (.lsrZpx nn) := rfl
theorem lsrAbs (hhll : Addr) : Statement (.lsrAbs hhll) := rfl
theorem lsrAbx (hhll : Addr) : Statement (.lsrAbx hhll) := rfl
theorem rolAcc : Statement (.rolAcc) := rfl
theorem rolZp (nn : Byte) : Statement (.rolZp nn) := rfl
theorem rolZpx (nn : Byte) : Statement (.rolZpx nn) := rfl
theorem rolAbs (hhll : Addr) : Statement (.rolAbs hhll) := rfl
theorem rolAbx (hhll : Addr) : Statement (.rolAbx hhll) := rfl
theorem rorAcc : Statement (.rorAcc) := rfl
theorem rorZp (nn : Byte) : Statement (.rorZp nn) := rfl
theorem rorZpx (nn : Byte) : Statement (.rorZpx nn) := rfl
theorem rorAbs (hhll : Addr) : Statement (.rorAbs hhll) := rfl
theorem rorAbx (hhll : Addr) : Statement (.rorAbx hhll) := rfl

end Sys2Proof.Laws.Sized
end

