-- ==== Sys2Proof/Laws/Step.lean ====
section
/-! SUPPORT. The step taken apart: what the fetch of one instruction does, and what the step answers for a
known and an unknown opcode byte, whatever the decode stage and the handlers are. -/

namespace Sys2Proof.Machine

variable {ι : Type}

theorem fetchOperands_f1 (i : ι) (s : State) : fetchOperands (.f1 i) s = (i, s) := rfl

theorem fetchOperands_f2 (build : Byte → ι) (s : State) :
    fetchOperands (.f2 build) s = (build (s.cell s.pc), (fetch s).2) := rfl

theorem fetchOperands_f3 (build : Addr → ι) (s : State) :
    fetchOperands (.f3 build) s =
      (build (wordOfBytes (s.cell s.pc) (s.cell (s.pc + 1))), (fetch (fetch s).2).2) := rfl

theorem stepOf_unknown {map : FormatMap ι} {s : State} (h : map (s.cell s.pc) = none) (run : ι → State → Result) :
    stepOf map run s = raiseUnknownOpcode (s.cell s.pc) (enter .dispatching (fetch (beginStep s)).2) := by
  have h' : map (fetch (beginStep s)).1 = none := h
  simp only [stepOf, fetchInstr, h']
  rfl

theorem stepOf_known {map : FormatMap ι} {s : State} {f : Format ι} (h : map (s.cell s.pc) = some f)
    (run : ι → State → Result) :
    stepOf map run s =
      endStep (run (fetchOperands f (enter .executing (fetch (beginStep s)).2)).1
        (fetchOperands f (enter .executing (fetch (beginStep s)).2)).2) := by
  have h' : map (fetch (beginStep s)).1 = some f := h
  simp only [stepOf, fetchInstr, h']

end Sys2Proof.Machine
end

