-- ==== Sys2Proof/Tests/Slice0.lean ====
section
/-! SUPPORT. The model's own tests: ill-formed terms refused, words of the spec's encodings decoded, the
vectors of spec/95_test_vectors.md (each one step), and for every obligation with hypotheses a witness
that meets them. -/

namespace Sys2Proof.Tests

open Sys2Proof.Machine

/-! ### Well-formedness refuses (R55, R56, R58) -/

/-- First check, the pair: `STX $nnnn,Y` is a pair the map does not have (R57). -/
theorem test_wf_refuses_stx_aby : Form.wf ⟨.stx, .aby, 0⟩ = false := by decide
/-- First check: there is no `STA #` (V-UO-4). -/
theorem test_wf_refuses_sta_imm : Form.wf ⟨.sta, .imm, 1⟩ = false := by decide
/-- Second check, the operand: a zero-page operand is one byte (R51). -/
theorem test_wf_refuses_zp_operand_256 : Form.wf ⟨.lda, .zp, 256⟩ = false := by decide
/-- Second check: a two-byte operand is below 65536 (R51). -/
theorem test_wf_refuses_abs_operand_65536 : Form.wf ⟨.lda, .abs, 65536⟩ = false := by decide
/-- Second check: an implied form has no operand (R51). -/
theorem test_wf_refuses_implied_operand : Form.wf ⟨.inx, .imp, 1⟩ = false := by decide
theorem test_wf_accepts_largest_operands :
    Form.wf ⟨.lda, .zp, 255⟩ = true ∧ Form.wf ⟨.lda, .abs, 65535⟩ = true := by decide

/-- The canonical form of memory: falling or repeated addresses, and one past 65535, are refused. -/
theorem test_memory_wf_refuses : Memory.wf [(2, 0), (1, 0)] = false ∧ Memory.wf [(1, 0), (1, 0)] = false ∧
    Memory.wf [(65536, 0)] = false := by decide
/-- Writes in any order give one list. -/
theorem test_memory_one_form :
    memSet (memSet [] 5 0x01) 3 0x02 = memSet (memSet (memSet [] 3 0x02) 5 0x00) 5 0x01 := by decide

/-! ### Words written out bit by bit from R56, one or more for each family -/

theorem test_word_lda_imm : decode [0b10101001, 0b10000000] = .instr (.ldaImm 0x80) [] := by decide
theorem test_word_ldx_zpy : decode [0b10110110, 0b00100000] = .instr (.ldxZpy 0x20) [] := by decide
theorem test_word_sta_abx : decode [0b10011101, 0b11110000, 0b00100000] = .instr (.staAbx 0x20F0) [] := by decide
theorem test_word_adc_izy : decode [0b01110001, 0b00100000] = .instr (.adcIzy 0x20) [] := by decide
theorem test_word_sbc_aby : decode [0b11111001, 0b11111001, 0b00100000] = .instr (.sbcAby 0x20F9) [] := by decide
theorem test_word_inc_abx : decode [0b11111110, 0b11111100, 0b00100000] = .instr (.incAbx 0x20FC) [] := by decide
theorem test_word_dey : decode [0b10001000, 0b11111111] = .instr .dey [0xFF] := by decide
theorem test_word_ror_acc : decode [0b01101010] = .instr .rorAcc [] := by decide
theorem test_word_rol_abs : decode [0b00101110, 0b00110100, 0b00010010] = .instr (.rolAbs 0x1234) [] := by decide
/-- V-UO-1, V-UO-5 and too few bytes, each rejected by name. -/
theorem test_word_rejected : decode [0b00000010, 0xFF] = .unknownOpcode 0x02 ∧
    decode [0b10011110, 0x00, 0x20] = .unknownOpcode 0x9E ∧ decode [0b10101101, 0x00] = .truncated := by decide
/-- The table's numbering: a later byte stands above an earlier one, and missing operand bytes are 0. -/
theorem test_table_word : decodeTableWord 24 0x2010AD = some (.ldaAbs 0x2010) ∧
    decodeTableWord 8 0xAD = some (.ldaAbs 0) ∧ decodeTableWord 8 0x02 = none := by decide

/-! ### Small states -/

/-- Bytes at `entry`, `PC` there, the listed cells, everything else as after reset. -/
def vectorState (entry : Addr) (bytes : List Byte) (cells : List (Addr × Byte)) : State :=
  cells.foldl (fun s p => s.setCell p.1 p.2) ((State.resetAt entry 0 []).storeBytes entry bytes)

/-- The common start state of spec/95_test_vectors.md section 2.7. -/
def rowState (bytes : List Byte) : State :=
  { vectorState 0x8000 bytes [(0x0020, 0xF8), (0x0021, 0x20), (0x0024, 0x00), (0x0025, 0x30), (0x0030, 0x81),
      (0x20F8, 0x7F), (0x20FC, 0xFF), (0x2108, 0x80), (0x3000, 0x01)] with
    a := 0x35, x := 0x04, y := 0x10, c := true }

/-- What a row of the spec's tables lists of a completed step: the bus operations, `A X Y` and the cycle
count, `PC`, `N V Z C`; none if a cell written on the bus does not hold the byte afterwards. -/
def seen : Result → Option (List BusOp × List Byte × Addr × List Nat)
  | .next t =>
    if t.port.all (fun op => match op with
        | .write q w => t.cell q == w
        | .read _ _ | .idle => true) then
      some (t.port, [t.a, t.x, t.y, t.cyc], t.pc, [t.n.toNat, t.v.toNat, t.z.toNat, t.c.toNat])
    else none
  | .fault _ | .refused _ => none

/-! ### One row for every opcode byte (spec/95_test_vectors.md section 2.7, E1 to E79) -/

theorem test_E1_lda : seen (step (rowState [0xA9, 0x20])) =
    some ([.read 0x8000 0xA9, .read 0x8001 0x20], [0x20, 0x04, 0x10, 2], 0x8002, [0, 0, 0, 1]) := by decide
theorem test_E2_lda : seen (step (rowState [0xA5, 0x20])) =
    some ([.read 0x8000 0xA5, .read 0x8001 0x20, .read 0x0020 0xF8], [0xF8, 0x04, 0x10, 3], 0x8002, [1, 0,
      0, 1]) := by decide
theorem test_E3_lda : seen (step (rowState [0xB5, 0x20])) =
    some ([.read 0x8000 0xB5, .read 0x8001 0x20, .idle, .read 0x0024 0x00], [0x00, 0x04, 0x10, 4], 0x8002,
      [0, 0, 1, 1]) := by decide
theorem test_E4_lda : seen (step (rowState [0xAD, 0xF8, 0x20])) =
    some ([.read 0x8000 0xAD, .read 0x8001 0xF8, .read 0x8002 0x20, .read 0x20F8 0x7F], [0x7F, 0x04, 0x10,
      4], 0x8003, [0, 0, 0, 1]) := by decide
theorem test_E5_lda : seen (step (rowState [0xBD, 0xF8, 0x20])) =
    some ([.read 0x8000 0xBD, .read 0x8001 0xF8, .read 0x8002 0x20, .read 0x20FC 0xFF], [0xFF, 0x04, 0x10,
      4], 0x8003, [1, 0, 0, 1]) := by decide
theorem test_E6_lda : seen (step (rowState [0xB9, 0xF8, 0x20])) =
    some ([.read 0x8000 0xB9, .read 0x8001 0xF8, .read 0x8002 0x20, .idle, .read 0x2108 0x80], [0x80, 0x04,
      0x10, 5], 0x8003, [1, 0, 0, 1]) := by decide
theorem test_E7_lda : seen (step (rowState [0xA1, 0x20])) =
    some ([.read 0x8000 0xA1, .read 0x8001 0x20, .idle, .read 0x0024 0x00, .read 0x0025 0x30, .read 0x3000
      0x01], [0x01, 0x04, 0x10, 6], 0x8002, [0, 0, 0, 1]) := by decide
theorem test_E8_lda : seen (step (rowState [0xB1, 0x20])) =
    some ([.read 0x8000 0xB1, .read 0x8001 0x20, .read 0x0020 0xF8, .read 0x0021 0x20, .idle, .read 0x2108
      0x80], [0x80, 0x04, 0x10, 6], 0x8002, [1, 0, 0, 1]) := by decide
theorem test_E9_ldx : seen (step (rowState [0xA2, 0x20])) =
    some ([.read 0x8000 0xA2, .read 0x8001 0x20], [0x35, 0x20, 0x10, 2], 0x8002, [0, 0, 0, 1]) := by decide
theorem test_E10_ldx : seen (step (rowState [0xA6, 0x20])) =
    some ([.read 0x8000 0xA6, .read 0x8001 0x20, .read 0x0020 0xF8], [0x35, 0xF8, 0x10, 3], 0x8002, [1, 0,
      0, 1]) := by decide
theorem test_E11_ldx : seen (step (rowState [0xB6, 0x20])) =
    some ([.read 0x8000 0xB6, .read 0x8001 0x20, .idle, .read 0x0030 0x81], [0x35, 0x81, 0x10, 4], 0x8002,
      [1, 0, 0, 1]) := by decide
theorem test_E12_ldx : seen (step (rowState [0xAE, 0xF8, 0x20])) =
    some ([.read 0x8000 0xAE, .read 0x8001 0xF8, .read 0x8002 0x20, .read 0x20F8 0x7F], [0x35, 0x7F, 0x10,
      4], 0x8003, [0, 0, 0, 1]) := by decide
theorem test_E13_ldx : seen (step (rowState [0xBE, 0xF8, 0x20])) =
    some ([.read 0x8000 0xBE, .read 0x8001 0xF8, .read 0x8002 0x20, .idle, .read 0x2108 0x80], [0x35, 0x80,
      0x10, 5], 0x8003, [1, 0, 0, 1]) := by decide
theorem test_E14_ldy : seen (step (rowState [0xA0, 0x20])) =
    some ([.read 0x8000 0xA0, .read 0x8001 0x20], [0x35, 0x04, 0x20, 2], 0x8002, [0, 0, 0, 1]) := by decide
theorem test_E15_ldy : seen (step (rowState [0xA4, 0x20])) =
    some ([.read 0x8000 0xA4, .read 0x8001 0x20, .read 0x0020 0xF8], [0x35, 0x04, 0xF8, 3], 0x8002, [1, 0,
      0, 1]) := by decide
theorem test_E16_ldy : seen (step (rowState [0xB4, 0x20])) =
    some ([.read 0x8000 0xB4, .read 0x8001 0x20, .idle, .read 0x0024 0x00], [0x35, 0x04, 0x00, 4], 0x8002,
      [0, 0, 1, 1]) := by decide
theorem test_E17_ldy : seen (step (rowState [0xAC, 0xF8, 0x20])) =
    some ([.read 0x8000 0xAC, .read 0x8001 0xF8, .read 0x8002 0x20, .read 0x20F8 0x7F], [0x35, 0x04, 0x7F,
      4], 0x8003, [0, 0, 0, 1]) := by decide
theorem test_E18_ldy : seen (step (rowState [0xBC, 0xF8, 0x20])) =
    some ([.read 0x8000 0xBC, .read 0x8001 0xF8, .read 0x8002 0x20, .read 0x20FC 0xFF], [0x35, 0x04, 0xFF,
      4], 0x8003, [1, 0, 0, 1]) := by decide
theorem test_E19_sta : seen (step (rowState [0x85, 0x20])) =
    some ([.read 0x8000 0x85, .read 0x8001 0x20, .write 0x0020 0x35], [0x35, 0x04, 0x10, 3], 0x8002, [0, 0,
      0, 1]) := by decide
theorem test_E20_sta : seen (step (rowState [0x95, 0x20])) =
    some ([.read 0x8000 0x95, .read 0x8001 0x20, .idle, .write 0x0024 0x35], [0x35, 0x04, 0x10, 4], 0x8002,
      [0, 0, 0, 1]) := by decide
theorem test_E21_sta : seen (step (rowState [0x8D, 0xF8, 0x20])) =
    some ([.read 0x8000 0x8D, .read 0x8001 0xF8, .read 0x8002 0x20, .write 0x20F8 0x35], [0x35, 0x04, 0x10,
      4], 0x8003, [0, 0, 0, 1]) := by decide
theorem test_E22_sta : seen (step (rowState [0x9D, 0xF8, 0x20])) =
    some ([.read 0x8000 0x9D, .read 0x8001 0xF8, .read 0x8002 0x20, .write 0x20FC 0x35], [0x35, 0x04, 0x10,
      4], 0x8003, [0, 0, 0, 1]) := by decide
theorem test_E23_sta : seen (step (rowState [0x99, 0xF8, 0x20])) =
    some ([.read 0x8000 0x99, .read 0x8001 0xF8, .read 0x8002 0x20, .idle, .write 0x2108 0x35], [0x35, 0x04,
      0x10, 5], 0x8003, [0, 0, 0, 1]) := by decide
theorem test_E24_sta : seen (step (rowState [0x81, 0x20])) =
    some ([.read 0x8000 0x81, .read 0x8001 0x20, .idle, .read 0x0024 0x00, .read 0x0025 0x30, .write 0x3000
      0x35], [0x35, 0x04, 0x10, 6], 0x8002, [0, 0, 0, 1]) := by decide
theorem test_E25_sta : seen (step (rowState [0x91, 0x20])) =
    some ([.read 0x8000 0x91, .read 0x8001 0x20, .read 0x0020 0xF8, .read 0x0021 0x20, .idle, .write 0x2108
      0x35], [0x35, 0x04, 0x10, 6], 0x8002, [0, 0, 0, 1]) := by decide
theorem test_E26_stx : seen (step (rowState [0x86, 0x20])) =
    some ([.read 0x8000 0x86, .read 0x8001 0x20, .write 0x0020 0x04], [0x35, 0x04, 0x10, 3], 0x8002, [0, 0,
      0, 1]) := by decide
theorem test_E27_stx : seen (step (rowState [0x96, 0x20])) =
    some ([.read 0x8000 0x96, .read 0x8001 0x20, .idle, .write 0x0030 0x04], [0x35, 0x04, 0x10, 4], 0x8002,
      [0, 0, 0, 1]) := by decide
theorem test_E28_stx : seen (step (rowState [0x8E, 0xF8, 0x20])) =
    some ([.read 0x8000 0x8E, .read 0x8001 0xF8, .read 0x8002 0x20, .write 0x20F8 0x04], [0x35, 0x04, 0x10,
      4], 0x8003, [0, 0, 0, 1]) := by decide
theorem test_E29_sty : seen (step (rowState [0x84, 0x20])) =
    some ([.read 0x8000 0x84, .read 0x8001 0x20, .write 0x0020 0x10], [0x35, 0x04, 0x10, 3], 0x8002, [0, 0,
      0, 1]) := by decide
theorem test_E30_sty : seen (step (rowState [0x94, 0x20])) =
    some ([.read 0x8000 0x94, .read 0x8001 0x20, .idle, .write 0x0024 0x10], [0x35, 0x04, 0x10, 4], 0x8002,
      [0, 0, 0, 1]) := by decide
theorem test_E31_sty : seen (step (rowState [0x8C, 0xF8, 0x20])) =
    some ([.read 0x8000 0x8C, .read 0x8001 0xF8, .read 0x8002 0x20, .write 0x20F8 0x10], [0x35, 0x04, 0x10,
      4], 0x8003, [0, 0, 0, 1]) := by decide
theorem test_E32_adc : seen (step (rowState [0x69, 0x20])) =
    some ([.read 0x8000 0x69, .read 0x8001 0x20], [0x56, 0x04, 0x10, 2], 0x8002, [0, 0, 0, 0]) := by decide
theorem test_E33_adc : seen (step (rowState [0x65, 0x20])) =
    some ([.read 0x8000 0x65, .read 0x8001 0x20, .read 0x0020 0xF8], [0x2E, 0x04, 0x10, 3], 0x8002, [0, 0,
      0, 1]) := by decide
theorem test_E34_adc : seen (step (rowState [0x75, 0x20])) =
    some ([.read 0x8000 0x75, .read 0x8001 0x20, .idle, .read 0x0024 0x00], [0x36, 0x04, 0x10, 4], 0x8002,
      [0, 0, 0, 0]) := by decide
theorem test_E35_adc : seen (step (rowState [0x6D, 0xF8, 0x20])) =
    some ([.read 0x8000 0x6D, .read 0x8001 0xF8, .read 0x8002 0x20, .read 0x20F8 0x7F], [0xB5, 0x04, 0x10,
      4], 0x8003, [1, 1, 0, 0]) := by decide
theorem test_E36_adc : seen (step (rowState [0x7D, 0xF8, 0x20])) =
    some ([.read 0x8000 0x7D, .read 0x8001 0xF8, .read 0x8002 0x20, .read 0x20FC 0xFF], [0x35, 0x04, 0x10,
      4], 0x8003, [0, 0, 0, 1]) := by decide
theorem test_E37_adc : seen (step (rowState [0x79, 0xF8, 0x20])) =
    some ([.read 0x8000 0x79, .read 0x8001 0xF8, .read 0x8002 0x20, .idle, .read 0x2108 0x80], [0xB6, 0x04,
      0x10, 5], 0x8003, [1, 0, 0, 0]) := by decide
theorem test_E38_adc : seen (step (rowState [0x61, 0x20])) =
    some ([.read 0x8000 0x61, .read 0x8001 0x20, .idle, .read 0x0024 0x00, .read 0x0025 0x30, .read 0x3000
      0x01], [0x37, 0x04, 0x10, 6], 0x8002, [0, 0, 0, 0]) := by decide
theorem test_E39_adc : seen (step (rowState [0x71, 0x20])) =
    some ([.read 0x8000 0x71, .read 0x8001 0x20, .read 0x0020 0xF8, .read 0x0021 0x20, .idle, .read 0x2108
      0x80], [0xB6, 0x04, 0x10, 6], 0x8002, [1, 0, 0, 0]) := by decide
theorem test_E40_sbc : seen (step (rowState [0xE9, 0x20])) =
    some ([.read 0x8000 0xE9, .read 0x8001 0x20], [0x15, 0x04, 0x10, 2], 0x8002, [0, 0, 0, 1]) := by decide
theorem test_E41_sbc : seen (step (rowState [0xE5, 0x20])) =
    some ([.read 0x8000 0xE5, .read 0x8001 0x20, .read 0x0020 0xF8], [0x3D, 0x04, 0x10, 3], 0x8002, [0, 0,
      0, 0]) := by decide
theorem test_E42_sbc : seen (step (rowState [0xF5, 0x20])) =
    some ([.read 0x8000 0xF5, .read 0x8001 0x20, .idle, .read 0x0024 0x00], [0x35, 0x04, 0x10, 4], 0x8002,
      [0, 0, 0, 1]) := by decide
theorem test_E43_sbc : seen (step (rowState [0xED, 0xF8, 0x20])) =
    some ([.read 0x8000 0xED, .read 0x8001 0xF8, .read 0x8002 0x20, .read 0x20F8 0x7F], [0xB6, 0x04, 0x10,
      4], 0x8003, [1, 0, 0, 0]) := by decide
theorem test_E44_sbc : seen (step (rowState [0xFD, 0xF8, 0x20])) =
    some ([.read 0x8000 0xFD, .read 0x8001 0xF8, .read 0x8002 0x20, .read 0x20FC 0xFF], [0x36, 0x04, 0x10,
      4], 0x8003, [0, 0, 0, 0]) := by decide
theorem test_E45_sbc : seen (step (rowState [0xF9, 0xF8, 0x20])) =
    some ([.read 0x8000 0xF9, .read 0x8001 0xF8, .read 0x8002 0x20, .idle, .read 0x2108 0x80], [0xB5, 0x04,
      0x10, 5], 0x8003, [1, 1, 0, 0]) := by decide
theorem test_E46_sbc : seen (step (rowState [0xE1, 0x20])) =
    some ([.read 0x8000 0xE1, .read 0x8001 0x20, .idle, .read 0x0024 0x00, .read 0x0025 0x30, .read 0x3000
      0x01], [0x34, 0x04, 0x10, 6], 0x8002, [0, 0, 0, 1]) := by decide
theorem test_E47_sbc : seen (step (rowState [0xF1, 0x20])) =
    some ([.read 0x8000 0xF1, .read 0x8001 0x20, .read 0x0020 0xF8, .read 0x0021 0x20, .idle, .read 0x2108
      0x80], [0xB5, 0x04, 0x10, 6], 0x8002, [1, 1, 0, 0]) := by decide
theorem test_E48_inc : seen (step (rowState [0xE6, 0x20])) =
    some ([.read 0x8000 0xE6, .read 0x8001 0x20, .read 0x0020 0xF8, .write 0x0020 0xF9], [0x35, 0x04, 0x10,
      4], 0x8002, [1, 0, 0, 1]) := by decide
theorem test_E49_inc : seen (step (rowState [0xF6, 0x20])) =
    some ([.read 0x8000 0xF6, .read 0x8001 0x20, .idle, .read 0x0024 0x00, .write 0x0024 0x01], [0x35, 0x04,
      0x10, 5], 0x8002, [0, 0, 0, 1]) := by decide
theorem test_E50_inc : seen (step (rowState [0xEE, 0xF8, 0x20])) =
    some ([.read 0x8000 0xEE, .read 0x8001 0xF8, .read 0x8002 0x20, .read 0x20F8 0x7F, .write 0x20F8 0x80],
      [0x35, 0x04, 0x10, 5], 0x8003, [1, 0, 0, 1]) := by decide
theorem test_E51_inc : seen (step (rowState [0xFE, 0xF8, 0x20])) =
    some ([.read 0x8000 0xFE, .read 0x8001 0xF8, .read 0x8002 0x20, .read 0x20FC 0xFF, .write 0x20FC 0x00],
      [0x35, 0x04, 0x10, 5], 0x8003, [0, 0, 1, 1]) := by decide
theorem test_E52_dec : seen (step (rowState [0xC6, 0x20])) =
    some ([.read 0x8000 0xC6, .read 0x8001 0x20, .read 0x0020 0xF8, .write 0x0020 0xF7], [0x35, 0x04, 0x10,
      4], 0x8002, [1, 0, 0, 1]) := by decide
theorem test_E53_dec : seen (step (rowState [0xD6, 0x20])) =
    some ([.read 0x8000 0xD6, .read 0x8001 0x20, .idle, .read 0x0024 0x00, .write 0x0024 0xFF], [0x35, 0x04,
      0x10, 5], 0x8002, [1, 0, 0, 1]) := by decide
theorem test_E54_dec : seen (step (rowState [0xCE, 0xF8, 0x20])) =
    some ([.read 0x8000 0xCE, .read 0x8001 0xF8, .read 0x8002 0x20, .read 0x20F8 0x7F, .write 0x20F8 0x7E],
      [0x35, 0x04, 0x10, 5], 0x8003, [0, 0, 0, 1]) := by decide
theorem test_E55_dec : seen (step (rowState [0xDE, 0xF8, 0x20])) =
    some ([.read 0x8000 0xDE, .read 0x8001 0xF8, .read 0x8002 0x20, .read 0x20FC 0xFF, .write 0x20FC 0xFE],
      [0x35, 0x04, 0x10, 5], 0x8003, [1, 0, 0, 1]) := by decide
theorem test_E56_inx : seen (step (rowState [0xE8])) =
    some ([.read 0x8000 0xE8], [0x35, 0x05, 0x10, 1], 0x8001, [0, 0, 0, 1]) := by decide
theorem test_E57_iny : seen (step (rowState [0xC8])) =
    some ([.read 0x8000 0xC8], [0x35, 0x04, 0x11, 1], 0x8001, [0, 0, 0, 1]) := by decide
theorem test_E58_dex : seen (step (rowState [0xCA])) =
    some ([.read 0x8000 0xCA], [0x35, 0x03, 0x10, 1], 0x8001, [0, 0, 0, 1]) := by decide
theorem test_E59_dey : seen (step (rowState [0x88])) =
    some ([.read 0x8000 0x88], [0x35, 0x04, 0x0F, 1], 0x8001, [0, 0, 0, 1]) := by decide
theorem test_E60_asl : seen (step (rowState [0x0A])) =
    some ([.read 0x8000 0x0A, .idle], [0x6A, 0x04, 0x10, 2], 0x8001, [0, 0, 0, 0]) := by decide
theorem test_E61_asl : seen (step (rowState [0x06, 0x20])) =
    some ([.read 0x8000 0x06, .read 0x8001 0x20, .read 0x0020 0xF8, .idle, .write 0x0020 0xF0], [0x35, 0x04,
      0x10, 5], 0x8002, [1, 0, 0, 1]) := by decide
theorem test_E62_asl : seen (step (rowState [0x16, 0x20])) =
    some ([.read 0x8000 0x16, .read 0x8001 0x20, .idle, .read 0x0024 0x00, .idle, .write 0x0024 0x00],
      [0x35, 0x04, 0x10, 6], 0x8002, [0, 0, 1, 0]) := by decide
theorem test_E63_asl : seen (step (rowState [0x0E, 0xF8, 0x20])) =
    some ([.read 0x8000 0x0E, .read 0x8001 0xF8, .read 0x8002 0x20, .read 0x20F8 0x7F, .idle, .write 0x20F8
      0xFE], [0x35, 0x04, 0x10, 6], 0x8003, [1, 0, 0, 0]) := by decide
theorem test_E64_asl : seen (step (rowState [0x1E, 0xF8, 0x20])) =
    some ([.read 0x8000 0x1E, .read 0x8001 0xF8, .read 0x8002 0x20, .read 0x20FC 0xFF, .idle, .write 0x20FC
      0xFE], [0x35, 0x04, 0x10, 6], 0x8003, [1, 0, 0, 1]) := by decide
theorem test_E65_lsr : seen (step (rowState [0x4A])) =
    some ([.read 0x8000 0x4A, .idle], [0x1A, 0x04, 0x10, 2], 0x8001, [0, 0, 0, 1]) := by decide
theorem test_E66_lsr : seen (step (rowState [0x46, 0x20])) =
    some ([.read 0x8000 0x46, .read 0x8001 0x20, .read 0x0020 0xF8, .idle, .write 0x0020 0x7C], [0x35, 0x04,
      0x10, 5], 0x8002, [0, 0, 0, 0]) := by decide
theorem test_E67_lsr : seen (step (rowState [0x56, 0x20])) =
    some ([.read 0x8000 0x56, .read 0x8001 0x20, .idle, .read 0x0024 0x00, .idle, .write 0x0024 0x00],
      [0x35, 0x04, 0x10, 6], 0x8002, [0, 0, 1, 0]) := by decide
theorem test_E68_lsr : seen (step (rowState [0x4E, 0xF8, 0x20])) =
    some ([.read 0x8000 0x4E, .read 0x8001 0xF8, .read 0x8002 0x20, .read 0x20F8 0x7F, .idle, .write 0x20F8
      0x3F], [0x35, 0x04, 0x10, 6], 0x8003, [0, 0, 0, 1]) := by decide
theorem test_E69_lsr : seen (step (rowState [0x5E, 0xF8, 0x20])) =
    some ([.read 0x8000 0x5E, .read 0x8001 0xF8, .read 0x8002 0x20, .read 0x20FC 0xFF, .idle, .write 0x20FC
      0x7F], [0x35, 0x04, 0x10, 6], 0x8003, [0, 0, 0, 1]) := by decide
theorem test_E70_rol : seen (step (rowState [0x2A])) =
    some ([.read 0x8000 0x2A, .idle], [0x6B, 0x04, 0x10, 2], 0x8001, [0, 0, 0, 0]) := by decide
theorem test_E71_rol : seen (step (rowState [0x26, 0x20])) =
    some ([.read 0x8000 0x26, .read 0x8001 0x20, .read 0x0020 0xF8, .idle, .write 0x0020 0xF1], [0x35, 0x04,
      0x10, 5], 0x8002, [1, 0, 0, 1]) := by decide
theorem test_E72_rol : seen (step (rowState [0x36, 0x20])) =
    some ([.read 0x8000 0x36, .read 0x8001 0x20, .idle, .read 0x0024 0x00, .idle, .write 0x0024 0x01],
      [0x35, 0x04, 0x10, 6], 0x8002, [0, 0, 0, 0]) := by decide
theorem test_E73_rol : seen (step (rowState [0x2E, 0xF8, 0x20])) =
    some ([.read 0x8000 0x2E, .read 0x8001 0xF8, .read 0x8002 0x20, .read 0x20F8 0x7F, .idle, .write 0x20F8
      0xFF], [0x35, 0x04, 0x10, 6], 0x8003, [1, 0, 0, 0]) := by decide
theorem test_E74_rol : seen (step (rowState [0x3E, 0xF8, 0x20])) =
    some ([.read 0x8000 0x3E, .read 0x8001 0xF8, .read 0x8002 0x20, .read 0x20FC 0xFF, .idle, .write 0x20FC
      0xFF], [0x35, 0x04, 0x10, 6], 0x8003, [1, 0, 0, 1]) := by decide
theorem test_E75_ror : seen (step (rowState [0x6A])) =
    some ([.read 0x8000 0x6A, .idle], [0x9A, 0x04, 0x10, 2], 0x8001, [1, 0, 0, 1]) := by decide
theorem test_E76_ror : seen (step (rowState [0x66, 0x20])) =
    some ([.read 0x8000 0x66, .read 0x8001 0x20, .read 0x0020 0xF8, .idle, .write 0x0020 0xFC], [0x35, 0x04,
      0x10, 5], 0x8002, [1, 0, 0, 0]) := by decide
theorem test_E77_ror : seen (step (rowState [0x76, 0x20])) =
    some ([.read 0x8000 0x76, .read 0x8001 0x20, .idle, .read 0x0024 0x00, .idle, .write 0x0024 0x80],
      [0x35, 0x04, 0x10, 6], 0x8002, [1, 0, 0, 0]) := by decide
theorem test_E78_ror : seen (step (rowState [0x6E, 0xF8, 0x20])) =
    some ([.read 0x8000 0x6E, .read 0x8001 0xF8, .read 0x8002 0x20, .read 0x20F8 0x7F, .idle, .write 0x20F8
      0xBF], [0x35, 0x04, 0x10, 6], 0x8003, [1, 0, 0, 1]) := by decide
theorem test_E79_ror : seen (step (rowState [0x7E, 0xF8, 0x20])) =
    some ([.read 0x8000 0x7E, .read 0x8001 0xF8, .read 0x8002 0x20, .read 0x20FC 0xFF, .idle, .write 0x20FC
      0xFF], [0x35, 0x04, 0x10, 6], 0x8003, [1, 0, 0, 1]) := by decide

/-! ### Corner cases (spec/95_test_vectors.md sections 2.1 to 2.6): wraps, crossings, flags left alone -/

theorem test_V_AM_3 : seen (step { vectorState 0x8000 [0xB5, 0xF0] [(0x0010, 0x11), (0x0110, 0x22)]
      with x := 0x20 }) =
    some ([.read 0x8000 0xB5, .read 0x8001 0xF0, .idle, .read 0x0010 0x11], [0x11, 0x20, 0x00, 4], 0x8002,
      [0, 0, 0, 0]) := by decide
theorem test_V_AM_5 : seen (step { vectorState 0x8000 [0xB6, 0xFF] [(0x0000, 0x44), (0x0100, 0x55)]
      with y := 0x01 }) =
    some ([.read 0x8000 0xB6, .read 0x8001 0xFF, .idle, .read 0x0000 0x44], [0x00, 0x44, 0x01, 4], 0x8002,
      [0, 0, 0, 0]) := by decide
theorem test_V_AM_8 : seen (step { vectorState 0x8000 [0xBD, 0xF0, 0x20] [(0x2100, 0x77)] with x := 0x10 })
      =
    some ([.read 0x8000 0xBD, .read 0x8001 0xF0, .read 0x8002 0x20, .idle, .read 0x2100 0x77], [0x77, 0x10,
      0x00, 5], 0x8003, [0, 0, 0, 0]) := by decide
theorem test_V_AM_9 : seen (step { vectorState 0x8000 [0xB9, 0xF0, 0xFF] [(0x0010, 0x88)] with y := 0x20 })
      =
    some ([.read 0x8000 0xB9, .read 0x8001 0xF0, .read 0x8002 0xFF, .idle, .read 0x0010 0x88], [0x88, 0x00,
      0x20, 5], 0x8003, [1, 0, 0, 0]) := by decide
theorem test_V_AM_12 : seen (step { vectorState 0x8000 [0xA1, 0xFE] [(0x00FF, 0x34), (0x0000, 0x12),
      (0x0100, 0x56), (0x1234, 0xCD), (0x5634, 0xEE)] with x := 0x01 }) =
    some ([.read 0x8000 0xA1, .read 0x8001 0xFE, .idle, .read 0x00FF 0x34, .read 0x0000 0x12, .read 0x1234
      0xCD], [0xCD, 0x01, 0x00, 6], 0x8002, [1, 0, 0, 0]) := by decide
theorem test_V_AM_17 : seen (step { vectorState 0x8000 [0xB1, 0x20] [(0x0020, 0xFF), (0x0021, 0xFF),
      (0x0001, 0x3C)] with y := 0x02 }) =
    some ([.read 0x8000 0xB1, .read 0x8001 0x20, .read 0x0020 0xFF, .read 0x0021 0xFF, .idle, .read 0x0001
      0x3C], [0x3C, 0x00, 0x02, 6], 0x8002, [0, 0, 0, 0]) := by decide
theorem test_V_LS_1 : seen (step { vectorState 0x8000 [0xA9, 0x00] [] with a := 0x55, n := true }) =
    some ([.read 0x8000 0xA9, .read 0x8001 0x00], [0x00, 0x00, 0x00, 2], 0x8002, [0, 0, 1, 0]) := by decide
theorem test_V_LS_2 : seen (step { vectorState 0x8000 [0xA2, 0x80] [] with c := true, v := true }) =
    some ([.read 0x8000 0xA2, .read 0x8001 0x80], [0x00, 0x80, 0x00, 2], 0x8002, [1, 1, 0, 1]) := by decide
theorem test_V_LS_3 : seen (step { vectorState 0x8000 [0xA0, 0x7F] [] with z := true, n := true }) =
    some ([.read 0x8000 0xA0, .read 0x8001 0x7F], [0x00, 0x00, 0x7F, 2], 0x8002, [0, 0, 0, 0]) := by decide
theorem test_V_LS_4 : seen (step { vectorState 0x8000 [0x8D, 0x00, 0x20] [(0x2000, 0xFF)]
      with a := 0x00, n := true }) =
    some ([.read 0x8000 0x8D, .read 0x8001 0x00, .read 0x8002 0x20, .write 0x2000 0x00], [0x00, 0x00, 0x00,
      4], 0x8003, [1, 0, 0, 0]) := by decide
theorem test_V_LS_5 : seen (step { vectorState 0x8000 [0x96, 0xFF] [] with x := 0x7F, y := 0x02 }) =
    some ([.read 0x8000 0x96, .read 0x8001 0xFF, .idle, .write 0x0001 0x7F], [0x00, 0x7F, 0x02, 4], 0x8002,
      [0, 0, 0, 0]) := by decide
theorem test_V_LS_6 : seen (step { vectorState 0x8000 [0x9D, 0xFF, 0xFF] [] with a := 0xA5, x := 0x01 }) =
    some ([.read 0x8000 0x9D, .read 0x8001 0xFF, .read 0x8002 0xFF, .idle, .write 0x0000 0xA5], [0xA5, 0x01,
      0x00, 5], 0x8003, [0, 0, 0, 0]) := by decide
theorem test_V_LS_8 : seen (step { vectorState 0x8000 [0x91, 0xFF] [(0x00FF, 0x00), (0x0000, 0x30)]
      with a := 0x5A, y := 0x00 }) =
    some ([.read 0x8000 0x91, .read 0x8001 0xFF, .read 0x00FF 0x00, .read 0x0000 0x30, .write 0x3000 0x5A],
      [0x5A, 0x00, 0x00, 5], 0x8002, [0, 0, 0, 0]) := by decide
theorem test_V_LS_9 : seen (step { vectorState 0x8000 [0x94, 0x20] [] with y := 0xAA, x := 0x05 }) =
    some ([.read 0x8000 0x94, .read 0x8001 0x20, .idle, .write 0x0025 0xAA], [0x00, 0x05, 0xAA, 4], 0x8002,
      [0, 0, 0, 0]) := by decide
theorem test_V_AS_2 : seen (step { vectorState 0x8000 [0x65, 0x10] [(0x0010, 0x00)]
      with a := 0xFF, c := true }) =
    some ([.read 0x8000 0x65, .read 0x8001 0x10, .read 0x0010 0x00], [0x00, 0x00, 0x00, 3], 0x8002, [0, 0,
      1, 1]) := by decide
theorem test_V_AS_3 : seen (step { vectorState 0x8000 [0x71, 0x20] [(0x0020, 0xF8), (0x0021, 0x20), (0x2108,
      0x90)] with a := 0xD0, y := 0x10 }) =
    some ([.read 0x8000 0x71, .read 0x8001 0x20, .read 0x0020 0xF8, .read 0x0021 0x20, .idle, .read 0x2108
      0x90], [0x60, 0x00, 0x10, 6], 0x8002, [0, 1, 0, 1]) := by decide
theorem test_V_AS_6 : seen (step { vectorState 0x8000 [0xE9, 0x00] [] with a := 0x00, c := false }) =
    some ([.read 0x8000 0xE9, .read 0x8001 0x00], [0xFF, 0x00, 0x00, 2], 0x8002, [1, 0, 0, 0]) := by decide
theorem test_V_AS_7 : seen (step { vectorState 0x8000 [0xFD, 0x00, 0x20] [(0x2001, 0xB0)]
      with a := 0x50, x := 0x01, c := true }) =
    some ([.read 0x8000 0xFD, .read 0x8001 0x00, .read 0x8002 0x20, .read 0x2001 0xB0], [0xA0, 0x01, 0x00,
      4], 0x8003, [1, 1, 0, 0]) := by decide
theorem test_V_AS_8 : seen (step { vectorState 0x8000 [0x69, 0x00] [] with a := 0x7F, c := true, d := true
      }) =
    some ([.read 0x8000 0x69, .read 0x8001 0x00], [0x80, 0x00, 0x00, 2], 0x8002, [1, 1, 0, 0]) := by decide
theorem test_V_ID_1 : seen (step { vectorState 0x8000 [0xE6, 0x10] [(0x0010, 0xFF)]
      with c := true, v := true }) =
    some ([.read 0x8000 0xE6, .read 0x8001 0x10, .read 0x0010 0xFF, .write 0x0010 0x00], [0x00, 0x00, 0x00,
      4], 0x8002, [0, 1, 1, 1]) := by decide
theorem test_V_ID_2 : seen (step (vectorState 0x8000 [0xC6, 0x10] [(0x0010, 0x00)])) =
    some ([.read 0x8000 0xC6, .read 0x8001 0x10, .read 0x0010 0x00, .write 0x0010 0xFF], [0x00, 0x00, 0x00,
      4], 0x8002, [1, 0, 0, 0]) := by decide
theorem test_V_ID_3 : seen (step { vectorState 0x8000 [0xF6, 0x10] [(0x0008, 0x7F)] with x := 0xF8 }) =
    some ([.read 0x8000 0xF6, .read 0x8001 0x10, .idle, .read 0x0008 0x7F, .write 0x0008 0x80], [0x00, 0xF8,
      0x00, 5], 0x8002, [1, 0, 0, 0]) := by decide
theorem test_V_ID_4 : seen (step { vectorState 0x8000 [0xDE, 0xFF, 0x20] [(0x2100, 0x01)] with x := 0x01 })
      =
    some ([.read 0x8000 0xDE, .read 0x8001 0xFF, .read 0x8002 0x20, .idle, .read 0x2100 0x01, .write 0x2100
      0x00], [0x00, 0x01, 0x00, 6], 0x8003, [0, 0, 1, 0]) := by decide
theorem test_V_ID_5 : seen (step { vectorState 0x8000 [0xE8] [] with x := 0xFF }) =
    some ([.read 0x8000 0xE8], [0x00, 0x00, 0x00, 1], 0x8001, [0, 0, 1, 0]) := by decide
theorem test_V_ID_6 : seen (step { vectorState 0x8000 [0xCA] [] with x := 0x00 }) =
    some ([.read 0x8000 0xCA], [0x00, 0xFF, 0x00, 1], 0x8001, [1, 0, 0, 0]) := by decide
theorem test_V_ID_7 : seen (step { vectorState 0x8000 [0xC8] [] with y := 0x7F }) =
    some ([.read 0x8000 0xC8], [0x00, 0x00, 0x80, 1], 0x8001, [1, 0, 0, 0]) := by decide
theorem test_V_ID_8 : seen (step { vectorState 0x8000 [0x88] [] with y := 0x01 }) =
    some ([.read 0x8000 0x88], [0x00, 0x00, 0x00, 1], 0x8001, [0, 0, 1, 0]) := by decide
theorem test_V_ID_9 : seen (step (vectorState 0x8000 [0xEE, 0x01, 0x80] [])) =
    some ([.read 0x8000 0xEE, .read 0x8001 0x01, .read 0x8002 0x80, .read 0x8001 0x01, .write 0x8001 0x02],
      [0x00, 0x00, 0x00, 5], 0x8003, [0, 0, 0, 0]) := by decide
theorem test_V_SR_1 : seen (step { vectorState 0x8000 [0x0A] [] with a := 0x80 }) =
    some ([.read 0x8000 0x0A, .idle], [0x00, 0x00, 0x00, 2], 0x8001, [0, 0, 1, 1]) := by decide
theorem test_V_SR_3 : seen (step { vectorState 0x8000 [0x4A] [] with a := 0x01, n := true }) =
    some ([.read 0x8000 0x4A, .idle], [0x00, 0x00, 0x00, 2], 0x8001, [0, 0, 1, 1]) := by decide
theorem test_V_SR_4 : seen (step { vectorState 0x8000 [0x46, 0x10] [(0x0010, 0xFE)] with c := true }) =
    some ([.read 0x8000 0x46, .read 0x8001 0x10, .read 0x0010 0xFE, .idle, .write 0x0010 0x7F], [0x00, 0x00,
      0x00, 5], 0x8002, [0, 0, 0, 0]) := by decide
theorem test_V_SR_6 : seen (step { vectorState 0x8000 [0x2A] [] with a := 0x80, c := true }) =
    some ([.read 0x8000 0x2A, .idle], [0x01, 0x00, 0x00, 2], 0x8001, [0, 0, 0, 1]) := by decide
theorem test_V_SR_8 : seen (step { vectorState 0x8000 [0x6A] [] with a := 0x00, c := true }) =
    some ([.read 0x8000 0x6A, .idle], [0x80, 0x00, 0x00, 2], 0x8001, [1, 0, 0, 0]) := by decide
theorem test_V_SR_9 : seen (step { vectorState 0x8000 [0x3E, 0xF8, 0x20] [(0x2108, 0x55)]
      with x := 0x10, c := true }) =
    some ([.read 0x8000 0x3E, .read 0x8001 0xF8, .read 0x8002 0x20, .idle, .read 0x2108 0x55, .idle, .write
      0x2108 0xAB], [0x00, 0x10, 0x00, 7], 0x8003, [1, 0, 0, 0]) := by decide
theorem test_V_SR_10 : seen (step { vectorState 0x8000 [0x76, 0x10] [(0x0011, 0x03)]
      with x := 0x01, c := true }) =
    some ([.read 0x8000 0x76, .read 0x8001 0x10, .idle, .read 0x0011 0x03, .idle, .write 0x0011 0x81],
      [0x00, 0x01, 0x00, 6], 0x8002, [1, 0, 0, 1]) := by decide
theorem test_V_SR_11 : seen (step { vectorState 0x8000 [0x0E, 0x00, 0x20] [(0x2000, 0xC0)] with v := true })
      =
    some ([.read 0x8000 0x0E, .read 0x8001 0x00, .read 0x8002 0x20, .read 0x2000 0xC0, .idle, .write 0x2000
      0x80], [0x00, 0x00, 0x00, 6], 0x8003, [1, 1, 0, 1]) := by decide
theorem test_V_PC_2 : seen (step (vectorState 0xFFFE [0xAD, 0x00, 0x20] [(0x2000, 0x99)])) =
    some ([.read 0xFFFE 0xAD, .read 0xFFFF 0x00, .read 0x0000 0x20, .read 0x2000 0x99], [0x99, 0x00, 0x00,
      4], 0x0001, [1, 0, 0, 0]) := by decide

/-! ### Unknown opcodes and reset -/

/-- V-UO-1: nothing but `PC`, `Cyc` and the port's record changes. -/
theorem test_V_UO_1 :
    step { vectorState 0x8000 [0x02, 0xFF, 0xFF] [] with a := 0x12, x := 0x34, y := 0x56, n := true, c := true } =
      .fault (.unknownOpcode 0x02
        { vectorState 0x8001 [] [(0x8000, 0x02), (0x8001, 0xFF), (0x8002, 0xFF)] with
          a := 0x12, x := 0x34, y := 0x56, n := true, c := true, cyc := 1, port := [.read 0x8000 0x02] }) := rfl
/-- V-UO-6: `PC` wraps. -/
theorem test_V_UO_6 : step (vectorState 0xFFFF [0xFF] []) =
    .fault (.unknownOpcode 0xFF
      { vectorState 0x0000 [] [(0xFFFF, 0xFF)] with cyc := 1, port := [.read 0xFFFF 0xFF] }) := rfl
/-- The host's answers to V-UO-1, to a step before reset (D19) and to a load past the end (D16). -/
theorem test_host_answers :
    (transact .default .step ⟨vectorState 0x8000 [0x02] [], true⟩).1 = .unknownOpcode 0x02 ∧
      (transact .default .step ⟨State.reset, false⟩).1 = .refused .stepBeforeReset ∧
      (transact .default (.load 0xFFFF [1, 2]) ⟨State.reset, true⟩).1 = .refused (.loadPastEnd 0xFFFF 2) := by
  decide

/-! ### Witnesses: for each obligation with hypotheses, a case that meets them, clause by clause -/

/-- A block with `LDA #$80` at 0x8000, reset. -/
def testBlock : Block := ⟨vectorState 0x8000 [0xA9, 0x80] [], true⟩

theorem witness_EncodeInvertsDecode : decode [0xAD, 0x00, 0x20, 0x7F] = .instr (.ldaAbs 0x2000) [0x7F] := by
  decide

theorem witness_EveryOperandByteIsLegal :
    ((∃ f, instrFormat 0xE8 = some f ∧ ([] : List Byte).length = f.operandBytes) ∧
      (∃ f, instrFormat 0xA9 = some f ∧ ([0xFF] : List Byte).length = f.operandBytes) ∧
      ∃ f, instrFormat 0xAD = some f ∧ ([0xFF, 0xFF] : List Byte).length = f.operandBytes) ∧
      (∃ f, Mnemonic.format .ldx .zpx = some f) ∧ ([0xFF] : List Byte).length = Mode.operandBytes .zpx :=
  ⟨⟨⟨_, rfl, rfl⟩, ⟨_, rfl, rfl⟩, ⟨_, rfl, rfl⟩⟩, ⟨_, rfl⟩, rfl⟩

/-- The matrix clause of `ControlFollowsMnemonicModeAndOperand`. -/
theorem witness_ControlFollowsMnemonicModeAndOperand : Mode.izy ∈ Mnemonic.sbc.modes := by decide

theorem witness_MemWriteStoresOneCell : (0x0000#16 : Addr) ≠ 0xFFFF#16 := by decide

/-- `FetchReadsAndAdvancesPC`, `KnownInstructionsAlwaysComplete`, `AdditionNeverReadsDecimalFlag`,
`NAndZDescribeTheResult`, `FlagsAreWrittenOnlyByTheirInstructions`: an instruction and its next state. -/
theorem witness_exec_next : ∃ t, exec (.ldaImm 0x80) State.reset = .next t ∧ t.a = 0x80 := ⟨_, rfl, rfl⟩

/-- `NAndZDescribeTheResult` and `FlagsAreWrittenOnlyByTheirInstructions`: a next state in each case of the
match. -/
theorem witness_each_family_next :
    (∃ t, exec (.ldxZp 0xFF) State.reset = .next t) ∧ (∃ t, exec (.staZp 0xFF) State.reset = .next t) ∧
      (∃ t, exec (.adcZp 0xFF) State.reset = .next t) ∧ (∃ t, exec (.sbcImm 0xFF) State.reset = .next t) ∧
      (∃ t, exec (.decZp 0xFF) State.reset = .next t) ∧ (∃ t, exec .iny State.reset = .next t) ∧
      (∃ t, exec .aslAcc State.reset = .next t) ∧ ∃ t, exec (.rorZp 0xFF) State.reset = .next t :=
  ⟨⟨_, rfl⟩, ⟨_, rfl⟩, ⟨_, rfl⟩, ⟨_, rfl⟩, ⟨_, rfl⟩, ⟨_, rfl⟩, ⟨_, rfl⟩, _, rfl⟩

/-- `AdditionNeverReadsDecimalFlag`, third clause: a block that holds `D` set stays so. -/
theorem witness_AdditionNeverReadsDecimalFlag :
    (transact .default .observe ⟨{ State.reset with d := true }, true⟩).2.core.d = true := rfl

theorem witness_LoadImmediateResult : (Instr.ldyImm 0x80).control = .loadImm .y 0x80 := rfl
theorem witness_LoadMemoryResult : (Instr.ldxZpy 0xFF).control = .loadMem .x (.zpy 0xFF) := rfl
theorem witness_StoreResult : (Instr.staAbx 0xFFFF).control = .store .a (.abx 0xFFFF) := rfl
theorem witness_AddResult :
    (Instr.adcImm 0x50).control = .addImm 0x50 ∧ (Instr.adcIzy 0xFF).control = .addMem (.izy 0xFF) := ⟨rfl, rfl⟩
/-- Also of `SubtractionIsComplementAddition`, second clause. -/
theorem witness_SubtractResult :
    (Instr.sbcImm 0x00).control = .subImm 0x00 ∧ (Instr.sbcIzx 0xFE).control = .subMem (.izx 0xFE) := ⟨rfl, rfl⟩
theorem witness_SubtractionIsComplementAddition : ∃ t, exec (.sbcImm 0x00) State.reset = .next t ∧ t.a = 0xFF :=
  ⟨_, rfl, by decide⟩
theorem witness_MemoryStepResult : (Instr.decAbx 0x20FF).control = .stepMem .dec (.abx 0x20FF) := rfl
theorem witness_RegisterStepResult : Instr.inx.control = .stepReg .x .inc := rfl
theorem witness_AccumulatorShiftResult : Instr.rorAcc.control = .shiftAcc .ror := rfl
theorem witness_MemoryShiftResult : (Instr.aslZpx 0xFF).control = .shiftMem .asl (.zpx 0xFF) := rfl
theorem witness_ShiftsFollowTheirRules :
    Instr.rolAcc.control = .shiftAcc .rol ∧ (Instr.rolAbs 0x2000).control = .shiftMem .rol (.abs 0x2000) :=
  ⟨rfl, rfl⟩

theorem witness_LoadFrame :
    ((∃ w, (Instr.ldaImm 0).control = .loadImm .a w) ∧ ∃ t, exec (.ldaImm 0) State.reset = .next t) ∧
      (∃ m, (Instr.ldxAby 0xFFFF).control = .loadMem .x m) ∧ ∃ t, exec (.ldxAby 0xFFFF) State.reset = .next t :=
  ⟨⟨⟨_, rfl⟩, _, rfl⟩, ⟨_, rfl⟩, _, rfl⟩
theorem witness_StoreFrame : (Instr.stxZp 0).control = .store .x (.zp 0) ∧
    ∃ t, exec (.stxZp 0) State.reset = .next t ∧ t.cell 0 = 0 ∧ (0xFFFF#16 : Addr) ≠ (resolve (.zp 0) State.reset).1 :=
  ⟨rfl, _, rfl, by decide, by decide⟩
theorem witness_AddSubtractFrame :
    ((∃ w, (Instr.adcImm 1).control = .addImm w) ∧ ∃ t, exec (.adcImm 1) State.reset = .next t) ∧
      ((∃ m, (Instr.adcZp 1).control = .addMem m) ∧ ∃ t, exec (.adcZp 1) State.reset = .next t) ∧
      ((∃ w, (Instr.sbcImm 1).control = .subImm w) ∧ ∃ t, exec (.sbcImm 1) State.reset = .next t) ∧
      (∃ m, (Instr.sbcZp 1).control = .subMem m) ∧ ∃ t, exec (.sbcZp 1) State.reset = .next t :=
  ⟨⟨⟨_, rfl⟩, _, rfl⟩, ⟨⟨_, rfl⟩, _, rfl⟩, ⟨⟨_, rfl⟩, _, rfl⟩, ⟨_, rfl⟩, _, rfl⟩
theorem witness_ReadModifyWriteFrame :
    ((∃ δ, (Instr.incZp 0xFF).control = .stepMem δ (.zp 0xFF)) ∧ ∃ t, exec (.incZp 0xFF) State.reset = .next t) ∧
      (∃ op, (Instr.rorZp 0xFF).control = .shiftMem op (.zp 0xFF)) ∧ ∃ t, exec (.rorZp 0xFF) State.reset = .next t :=
  ⟨⟨⟨_, rfl⟩, _, rfl⟩, ⟨_, rfl⟩, _, rfl⟩
theorem witness_RegisterFormFrame :
    ((∃ δ, Instr.dey.control = .stepReg .y δ) ∧ ∃ t, exec .dey State.reset = .next t) ∧
      (∃ op, Instr.lsrAcc.control = .shiftAcc op) ∧ ∃ t, exec .lsrAcc State.reset = .next t :=
  ⟨⟨⟨_, rfl⟩, _, rfl⟩, ⟨_, rfl⟩, _, rfl⟩

/-- `StepRunsTheDecodedInstruction`, `KnownStepAdvancesByLength`, `CyclesFollowTheFormula`,
`PortFollowsTheBusTable`: one, two and three bytes, the last across the top of memory. -/
theorem witness_InstrAtPC :
    Spec.InstrAtPC (vectorState 0xFFFF [0xE8, 0x00, 0x00] []) .inx ∧
      Spec.InstrAtPC (vectorState 0xFFFF [0xA9, 0x42, 0x00] []) (.ldaImm 0x42) ∧
      Spec.InstrAtPC (vectorState 0xFFFE [0xAD, 0x00, 0x20] []) (.ldaAbs 0x2000) :=
  ⟨⟨[0x00, 0x00], by decide⟩, ⟨[0x00], by decide⟩, ⟨[], by decide⟩⟩

/-- Parameters other than the default: both cycle parameters 1, another entry address, and a map with pairs
that the matrix of R55 does not have, one of them (`STA` in IMM) without a handler. -/
def testParams : Params where
  entryAddress := 0xFFFD
  spReset := 0x01FF
  opcodeMap := fun b =>
    if b = 0x01 then some (.ldx, .zpx) else if b = 0x02 then some (.asl, .izy)
    else if b = 0x03 then some (.sta, .imm) else opcodeMap b
  immHandlerCycle := true
  rmwExtraCycle := true

/-- R7, D2: `LDX $20,X` under another map; R77 and R102 give the cell 0x0024. -/
theorem test_ldx_zpx : seen (stepWith testParams (rowState [0x01, 0x20])) =
    some ([.read 0x8000 0x01, .read 0x8001 0x20, .idle, .read 0x0024 0x00], [0x35, 0x00, 0x10, 4], 0x8002,
      [0, 0, 1, 1]) := by decide
/-- R7, D9: the third cycle of `LDA #` (E1 with the parameter at 1). -/
theorem test_imm_handler_cycle : seen (stepWith testParams (rowState [0xA9, 0x20])) =
    some ([.read 0x8000 0xA9, .read 0x8001 0x20, .idle], [0x20, 0x04, 0x10, 3], 0x8002, [0, 0, 0, 1]) := by
  decide
/-- R7, D10: the internal cycle of `DEC` (E52 with the parameter at 1). -/
theorem test_rmw_extra_cycle : seen (stepWith testParams (rowState [0xC6, 0x20])) =
    some ([.read 0x8000 0xC6, .read 0x8001 0x20, .read 0x0020 0xF8, .idle, .write 0x0020 0xF7],
      [0x35, 0x04, 0x10, 5], 0x8002, [1, 0, 0, 1]) := by decide
/-- A pair outside the matrix may take 8 cycles: `ASL ($20),Y` with a crossing (R199; log entry 18). -/
theorem test_eight_cycles : (seen (stepWith testParams (rowState [0x02, 0x20]))).map (fun o => o.2.1) =
    some [0x35, 0x04, 0x10, 8] := by decide
/-- A pair without a handler is an unknown opcode (log entry 18). -/
theorem test_no_handler :
    (transact testParams .step ⟨rowState [0x03, 0x20], true⟩).1 = .unknownOpcode 0x03 := by decide
/-- R191, R192 under other parameters. -/
theorem test_reset_params : (transact testParams .reset ⟨rowState [], true⟩).2.core.pc = 0xFFFD ∧
    (transact testParams .reset ⟨rowState [], true⟩).2.core.sp = 0x01FF := by decide

/-- `StepWithRunsTheMappedPair` and the second clauses of `KnownStepAdvancesByLength`,
`CyclesFollowTheFormula`, `PortFollowsTheBusTable`: a pair of the default map and one of another, the latter
across the top of memory. -/
theorem witness_PairAtPC :
    Spec.PairAtPC .default (vectorState 0x8000 [0xAD, 0x00, 0x20] []) .lda .abs (.loadMem .a (.abs 0x2000)) ∧
      Mode.abs ∈ Mnemonic.lda.modes ∧
      Spec.PairAtPC testParams (vectorState 0xFFFF [0x01, 0xFF, 0x00] []) .ldx .zpx (.loadMem .x (.zpx 0xFF)) :=
  ⟨⟨by decide, _, _, rfl, rfl⟩, by decide, ⟨by decide, _, _, rfl, rfl⟩⟩

/-- Both clauses of `StepFaultsExactlyOnUnknownOpcode`, and the hypothesis of
`UnknownOpcodeLeavesTheState`: an unmapped byte, a pair without a handler, a known byte. -/
theorem witness_StepFaultsExactlyOnUnknownOpcode :
    controlFormat opcodeMap ((vectorState 0xFFFF [0x02] []).cell (vectorState 0xFFFF [0x02] []).pc) = none ∧
      controlFormat testParams.opcodeMap ((vectorState 0xFFFF [0x03] []).cell 0xFFFF) = none ∧
      ∃ f, controlFormat testParams.opcodeMap ((vectorState 0xFFFF [0x02] []).cell 0xFFFF) = some f :=
  ⟨rfl, rfl, _, rfl⟩

/-- `STA $0003` across the top of memory (program P4). -/
theorem witness_WriteIsLastAndSeenByTheNextFetch :
    (∃ t, step { vectorState 0xFFFF [0x8D, 0x03, 0x00] [] with a := 0x42 } = .next t ∧
      t.port[3]? = some (.write 0x0003 0x42)) ∧
      ∃ t, stepWith testParams { vectorState 0xFFFF [0x8D, 0x03, 0x00] [] with a := 0x42 } = .next t ∧
        t.port[3]? = some (.write 0x0003 0x42) := ⟨⟨_, rfl, by decide⟩, _, rfl, by decide⟩

theorem witness_ResetMeetsTheInvariant : Memory.wf [(0, 0xA9), (65535, 0xFF)] = true := by decide

/-- `StepKeepsTheInvariant`: both clauses. -/
theorem witness_StepKeepsTheInvariant :
    (Spec.Inv (vectorState 0x8000 [0xE8] []) ∧ ∃ t, step (vectorState 0x8000 [0xE8] []) = .next t) ∧
      Spec.Inv (vectorState 0x8000 [0x02] []) ∧
        ∃ byte t, step (vectorState 0x8000 [0x02] []) = .fault (.unknownOpcode byte t) :=
  ⟨⟨⟨by decide, by decide, by decide, by decide, by decide, by decide, by decide, by decide⟩, _, rfl⟩,
    ⟨by decide, by decide, by decide, by decide, by decide, by decide, by decide, by decide⟩, _, _, rfl⟩

/-- `TransactionsKeepTheInvariant`: after reset, and before it with registers that hold anything, for both
bounds; and a map within the matrix. -/
theorem witness_TransactionsKeepTheInvariant :
    Spec.BlockInv 7 ⟨State.reset, true⟩ ∧ Spec.BlockInv 8 ⟨State.reset, true⟩ ∧
      Spec.BlockInv 7 ⟨{ State.reset with d := true, cyc := 9 }, false⟩ ∧
      Spec.WithinMatrix { testParams with opcodeMap := fun _ => some (.lda, .izy) } :=
  ⟨⟨rfl, fun _ => ⟨rfl, rfl, rfl, by decide, by decide, rfl, rfl, rfl⟩⟩,
    ⟨rfl, fun _ => ⟨rfl, rfl, rfl, by decide, by decide, rfl, rfl, rfl⟩⟩, ⟨rfl, fun h => by cases h⟩,
    fun _ _ _ h => by cases h; decide⟩

/-- `LoadStagesTheBytes`: the last address that fits, the untouched cells around it, and one byte too
many. -/
theorem witness_LoadStagesTheBytes :
    ((0xFFFF#16 : Addr).toNat + ([0xE8] : List Byte).length ≤ 65536 ∧ 0 < ([0xE8] : List Byte).length ∧
        (0xFFFE#16 : Addr).toNat < (0xFFFF#16 : Addr).toNat) ∧
      ((0x0000#16 : Addr).toNat + ([0xE8] : List Byte).length ≤ (0x0001#16 : Addr).toNat) ∧
      65536 < (0xFFFF#16 : Addr).toNat + ([0xE8, 0xE8] : List Byte).length := by decide

theorem witness_HostStepReports : testBlock.resetDone = true ∧ (⟨State.reset, false⟩ : Block).resetDone = false :=
  ⟨rfl, rfl⟩

/-- `STA $3000` then `LDA $3000` (V-LS-7). -/
theorem witness_StoreThenLoadRoundTrip :
    (Instr.staAbs 0x3000).control = .store .a (.abs 0x3000) ∧
      (Instr.ldaAbs 0x3000).control = .loadMem .a (.abs 0x3000) ∧
      ∃ t, exec (.staAbs 0x3000) { State.reset with a := 0x80 } = .next t ∧
        (resolve (.abs 0x3000) t).1 = (resolve (.abs 0x3000) { State.reset with a := 0x80 }).1 :=
  ⟨rfl, rfl, _, rfl, rfl⟩

end Sys2Proof.Tests
end

/-! # Proofs of the scope statements (spec/00_scope.md)

First the facts about the shared operations: the ALU in numbers, the resolver as the table of R158, the
fetches of a step. Then each handler as `Spec.effect` has it, and the obligations. -/

/-! ### The ALU and the flag evaluator in numbers (R84, R85, R121, R124, R141 to R144) -/

namespace Sys2Proof.Machine

open Sys2Proof.Spec

theorem msb_eq_decide_le (w : Byte) : w.msb = decide (128 ≤ w.toNat) := BitVec.msb_eq_decide w

theorem getLsbD_seven (w : Byte) : w.getLsbD 7 = w.msb := (BitVec.msb_eq_getLsbD_last w).symm

theorem getLsbD_zero_eq_decide (w : Byte) : w.getLsbD 0 = decide (w.toNat % 2 = 1) := Nat.testBit_zero w.toNat

theorem updateNZ_eq_withNZ (w : Byte) (s : State) : updateNZ w s = withNZ w s := by
  have hz : (w == 0) = decide (w.toNat = 0) := decide_eq_decide.2 BitVec.toNat_eq
  rw [updateNZ, withNZ, msb_eq_decide_le, hz]

theorem addWithCarry_eq_withSum (m : Byte) (s : State) : addWithCarry m s = withSum m s := by
  have hv : addOverflow s.a m s.c = decide (s.a.getLsbD 7 = m.getLsbD 7 ∧
      (BitVec.ofNat 8 (sum m s)).getLsbD 7 ≠ s.a.getLsbD 7) := by
    simp only [getLsbD_seven, addOverflow, Bool.decide_and, ne_eq, decide_not]
    rfl
  rw [addWithCarry, updateNZ_eq_withNZ, withSum, hv]
  rfl

theorem applyDelta_eq_stepped (δ : Delta) (w : Byte) : applyDelta δ w = stepped δ w := by
  cases δ with
  | inc => simp only [applyDelta, stepped]; bv_omega
  | dec => simp only [applyDelta, stepped]; bv_omega

theorem complement_eq_ofNat (w : Byte) : ~~~w = BitVec.ofNat 8 (255 - w.toNat) := by
  apply BitVec.eq_of_toNat_eq
  simp only [BitVec.toNat_not, BitVec.toNat_ofNat]
  omega

theorem shiftLeft_one_eq_ofNat (w : Byte) : w <<< 1 = BitVec.ofNat 8 (2 * w.toNat) := by
  apply BitVec.eq_of_toNat_eq
  simp [Nat.shiftLeft_eq, Nat.mul_comm]

theorem ushiftRight_one_eq_ofNat (w : Byte) : w >>> 1 = BitVec.ofNat 8 (w.toNat / 2) := by
  apply BitVec.eq_of_toNat_eq
  simp only [BitVec.toNat_ushiftRight, BitVec.toNat_ofNat, Nat.shiftRight_eq_div_pow]
  omega

/-- The carry enters at the bit the shift has freed, so that the `or` of R143 is a sum. -/
theorem shiftLeft_one_or_carry (w : Byte) (cin : Bool) :
    (w <<< 1) ||| (BitVec.ofBool cin).zeroExtend 8 = BitVec.ofNat 8 (2 * w.toNat + cin.toNat) := by
  have hdisjoint : (w <<< 1) &&& (BitVec.ofBool cin).zeroExtend 8 = 0#8 := by
    ext k hk
    cases k <;> simp
  rw [← BitVec.add_eq_or_of_and_eq_zero _ _ hdisjoint, shiftLeft_one_eq_ofNat, BitVec.ofNat_add]
  cases cin <;> rfl

/-- The same for R144, where the freed bit is bit 7. -/
theorem ushiftRight_one_or_carry (w : Byte) (cin : Bool) :
    (w >>> 1) ||| ((BitVec.ofBool cin).zeroExtend 8 <<< 7) =
      BitVec.ofNat 8 (w.toNat / 2 + 128 * cin.toNat) := by
  have hdisjoint : (w >>> 1) &&& ((BitVec.ofBool cin).zeroExtend 8 <<< 7) = 0#8 := by
    ext k hk
    obtain rfl | hk7 : k = 7 ∨ k < 7 := by omega
    · simp
    · simp [Nat.not_le.2 hk7]
  rw [← BitVec.add_eq_or_of_and_eq_zero _ _ hdisjoint, ushiftRight_one_eq_ofNat, BitVec.ofNat_add]
  cases cin <;> rfl

theorem applyShift_eq_shifted (op : ShiftOp) (w : Byte) (cin : Bool) :
    applyShift op w cin = shifted op w cin := by
  cases op with
  | asl => rw [applyShift, aslOp, shifted, shiftLeft_one_eq_ofNat, getLsbD_seven, msb_eq_decide_le]
  | lsr => rw [applyShift, lsrOp, shifted, ushiftRight_one_eq_ofNat, getLsbD_zero_eq_decide]
  | rol => rw [applyShift, rolOp, shifted, shiftLeft_one_or_carry, getLsbD_seven, msb_eq_decide_le]
  | ror => rw [applyShift, rorOp, shifted, ushiftRight_one_or_carry, getLsbD_zero_eq_decide]

/-! ### The resolver and the operand read as the table of R158 has them -/

theorem readPointer_fst (q : Byte) (s : State) : (readPointer q s).1 = pointerWord q s := rfl

theorem afterOps_setReg (ops : List BusOp) (s : State) (r : Reg) (w : Byte) :
    (afterOps ops s).setReg r w = afterOps ops (s.setReg r w) := by
  cases r <;> rfl

theorem resolve_eq (m : MemOperand) (s : State) :
    resolve m s = (effectiveAddress m s, afterOps (resolverOps m s) s) := by
  cases m with
  | zp nn | abs hhll => simp [resolve, effectiveAddress, resolverOps]
  | zpx nn | zpy nn => rfl
  | abx hhll | aby hhll => simp only [resolve, resolveIndexed, idleIf_eq]; rfl
  | izx nn =>
    refine Prod.ext rfl ?_
    simp only [resolve, readPointer_snd, idle_eq, afterOps_afterOps]
    rfl
  | izy nn =>
    simp only [resolve, resolveIndexed, readPointer_fst, readPointer_snd, idleIf_eq, afterOps_afterOps]
    rfl

theorem operandImm_eq (k : Bool) (w : Byte) (s : State) : operandImm k w s = (w, afterOps (idleOps k) s) := by
  rw [operandImm, idleIf_eq]

theorem operandMem_eq (m : MemOperand) (s : State) :
    operandMem m s = (s.cell (effectiveAddress m s), afterOps (resolverOps m s ++ [readOp m s]) s) := by
  rw [operandMem, resolve_eq, ← afterOps_afterOps]
  rfl

/-! ### Each handler's whole effect, in numbers -/

theorem loadReg_eq (r : Reg) (w : Byte) (ops : List BusOp) (s : State) :
    loadReg r w (afterOps ops s) = withNZ w (afterOps ops (s.setReg r w)) := by
  rw [loadReg, updateNZ_eq_withNZ, afterOps_setReg]

theorem loadImm_eq (k : Bool) (r : Reg) (w : Byte) (s : State) :
    loadImm k r w s = withNZ w (afterOps (idleOps k) (s.setReg r w)) := by
  rw [loadImm, operandImm_eq, loadReg_eq]

theorem loadMem_eq (r : Reg) (m : MemOperand) (s : State) :
    loadMem r m s = withNZ (s.cell (effectiveAddress m s))
      (afterOps (resolverOps m s ++ [readOp m s]) (s.setReg r (s.cell (effectiveAddress m s)))) := by
  rw [loadMem, operandMem_eq, loadReg_eq]

theorem store_eq (r : Reg) (m : MemOperand) (s : State) :
    store r m s = afterOps (resolverOps m s ++ [.write (effectiveAddress m s) (s.reg r)])
      (s.setCell (effectiveAddress m s) (s.reg r)) := by
  rw [store, resolve_eq, memWrite_snd, afterOps_setCell, afterOps_afterOps]

theorem addImm_eq (k : Bool) (w : Byte) (s : State) :
    addImm k w s = withSum w (afterOps (idleOps k) s) := by
  rw [addImm, operandImm_eq, addWithCarry_eq_withSum]

theorem addMem_eq (m : MemOperand) (s : State) :
    addMem m s =
      withSum (s.cell (effectiveAddress m s)) (afterOps (resolverOps m s ++ [readOp m s]) s) := by
  rw [addMem, operandMem_eq, addWithCarry_eq_withSum]

theorem subImm_eq (k : Bool) (w : Byte) (s : State) :
    subImm k w s = withSum (BitVec.ofNat 8 (255 - w.toNat)) (afterOps (idleOps k) s) := by
  rw [subImm, operandImm_eq, addWithCarry_eq_withSum, complement_eq_ofNat]

theorem subMem_eq (m : MemOperand) (s : State) :
    subMem m s = withSum (BitVec.ofNat 8 (255 - (s.cell (effectiveAddress m s)).toNat))
      (afterOps (resolverOps m s ++ [readOp m s]) s) := by
  rw [subMem, operandMem_eq, addWithCarry_eq_withSum, complement_eq_ofNat]

theorem stepMem_eq (k : Bool) (δ : Delta) (m : MemOperand) (s : State) :
    stepMem k δ m s = withNZ (stepped δ (s.cell (effectiveAddress m s)))
      (afterOps (resolverOps m s ++ readOp m s :: idleOps k ++
          [.write (effectiveAddress m s) (stepped δ (s.cell (effectiveAddress m s)))])
        (s.setCell (effectiveAddress m s) (stepped δ (s.cell (effectiveAddress m s))))) := by
  simp only [stepMem, operandMem_eq, resolve_eq, applyDelta_eq_stepped, updateNZ_eq_withNZ, idleIf_eq,
    memWrite_snd, afterOps_setCell, afterOps_afterOps, List.append_assoc, List.cons_append, List.nil_append]

theorem stepReg_eq (r : Reg) (δ : Delta) (s : State) :
    stepReg r δ s = withNZ (stepped δ (s.reg r)) (s.setReg r (stepped δ (s.reg r))) := by
  rw [stepReg, applyDelta_eq_stepped, updateNZ_eq_withNZ]

theorem shiftFlags_eq (out : Byte × Bool) (s : State) :
    shiftFlags out s = withNZ out.1 { s with c := out.2 } := updateNZ_eq_withNZ _ _

theorem memWrite_shiftFlags (q : Addr) (w : Byte) (out : Byte × Bool) (s : State) :
    (memWrite q w (shiftFlags out s)).2 = shiftFlags out (memWrite q w s).2 := rfl

theorem shiftAcc_eq (op : ShiftOp) (s : State) :
    shiftAcc op s = withNZ (shifted op s.a s.c).1
      { afterOps [.idle] s with a := (shifted op s.a s.c).1, c := (shifted op s.a s.c).2 } := by
  rw [shiftAcc, applyShift_eq_shifted, shiftFlags_eq, idle_eq]
  rfl

theorem shiftMem_eq (op : ShiftOp) (m : MemOperand) (s : State) :
    shiftMem op m s = withNZ (shifted op (s.cell (effectiveAddress m s)) s.c).1
      { afterOps (resolverOps m s ++ [readOp m s, .idle,
            .write (effectiveAddress m s) (shifted op (s.cell (effectiveAddress m s)) s.c).1])
          (s.setCell (effectiveAddress m s) (shifted op (s.cell (effectiveAddress m s)) s.c).1) with
        c := (shifted op (s.cell (effectiveAddress m s)) s.c).2 } := by
  simp only [shiftMem, memWrite_shiftFlags]
  simp only [shiftFlags_eq, operandMem_eq, resolve_eq, applyShift_eq_shifted, idle_eq, memWrite_snd,
    afterOps_setCell, afterOps_afterOps, List.append_assoc, List.cons_append, List.nil_append]

theorem execute_eq_effect (p : Params) (c : Control) (s : State) : execute p c s = effect p c s := by
  cases c with
  | loadImm r w => exact loadImm_eq _ r w s
  | loadMem r m => exact loadMem_eq r m s
  | store r m => exact store_eq r m s
  | addImm w => exact addImm_eq _ w s
  | addMem m => exact addMem_eq m s
  | subImm w => exact subImm_eq _ w s
  | subMem m => exact subMem_eq m s
  | stepMem δ m => exact stepMem_eq _ δ m s
  | stepReg r δ => exact stepReg_eq r δ s
  | shiftAcc op => exact shiftAcc_eq op s
  | shiftMem op m => exact shiftMem_eq op m s

/-- Settles O32: each handler's effect, family by family. -/
theorem executeFollowsTheRulesUnderAnyParameters : Obligations.ExecuteFollowsTheRulesUnderAnyParameters :=
  execute_eq_effect

end Sys2Proof.Machine

/-! ### The fetches of a step (R33, R50, R70) -/

namespace Sys2Proof.Machine

open Sys2Proof.Spec

theorem fetchOps_succ (k : Nat) (q : Addr) (s : State) :
    fetchOps (k + 1) q s =
      fetchOps k q s ++ [.read (q + BitVec.ofNat 16 k) (s.cell (q + BitVec.ofNat 16 k))] := by
  induction k generalizing q with
  | zero => simp [fetchOps]
  | succ k ih =>
    have hq : q + 1 + BitVec.ofNat 16 k = q + BitVec.ofNat 16 (k + 1) := by
      rw [BitVec.add_assoc, BitVec.add_comm 1, BitVec.ofNat_add]
      rfl
    rw [fetchOps, ih, hq, fetchOps, List.cons_append]

@[simp] theorem afterFetches_pc (k : Nat) (s : State) : (afterFetches k s).pc = s.pc + BitVec.ofNat 16 k := rfl
@[simp] theorem cell_afterFetches (k : Nat) (s : State) (q : Addr) : (afterFetches k s).cell q = s.cell q := rfl

/-- One more fetch is one more byte fetched. -/
theorem fetch_afterFetches (k : Nat) (s : State) :
    fetch (afterFetches k s) = (s.cell (s.pc + BitVec.ofNat 16 k), afterFetches (k + 1) s) := by
  refine Prod.ext rfl ?_
  simp only [fetch_snd, afterFetches, fetchOps_succ, BitVec.ofNat_add, ← BitVec.add_assoc]
  rfl

theorem enter_executing_fetch_beginStep (s : State) :
    enter .executing (fetch (beginStep s)).2 = afterFetches 1 s := rfl

variable {ι : Type}

/-- The operand fetches read what the decoder reads from the same bytes. -/
theorem fetchOperands_of_read {f : Format ι} {i : ι} {rest : List Byte} {s : State}
    (h : f.read [s.cell (s.pc + 1), s.cell (s.pc + 2)] = .instr i rest) :
    fetchOperands f (afterFetches 1 s) = (i, afterFetches (1 + f.operandBytes) s) := by
  cases f with
  | f1 j =>
    cases h
    rfl
  | f2 build =>
    cases h
    simp only [fetchOperands, fetch_afterFetches]
    rfl
  | f3 build =>
    cases h
    simp only [fetchOperands, fetch_afterFetches]
    rfl

/-- A step whose opcode byte has a format: run what the format reads, on the state with its bytes fetched. -/
theorem stepOf_of_read {map : FormatMap ι} {s : State} {f : Format ι} {i : ι} {rest : List Byte}
    (hf : map (s.cell s.pc) = some f) (hi : f.read [s.cell (s.pc + 1), s.cell (s.pc + 2)] = .instr i rest)
    (run : ι → State → Result) :
    stepOf map run s = endStep (run i (afterFetches (1 + f.operandBytes) s)) := by
  rw [stepOf_known hf, enter_executing_fetch_beginStep, fetchOperands_of_read hi]

/-- Settles O40: the pair's format reads the operand bytes that the step fetches. -/
theorem stepWithRunsTheMappedPair : Obligations.StepWithRunsTheMappedPair := by
  intro p s mn md c ⟨hpair, f, rest, hf, hread⟩
  have hformat : controlFormat p.opcodeMap (s.cell s.pc) = some f := by rw [controlFormat_of_pair hpair, hf]
  rw [stepWith, stepOf_of_read hformat hread, format_operandBytes hf]
  rfl

end Sys2Proof.Machine

/-! ### The machine under the default parameters (R7, R56) -/

namespace Sys2Proof

/-- The same format, with what it builds passed on to `g`. -/
def Format.map {ι κ : Type} (g : ι → κ) : Format ι → Format κ
  | .f1 i => .f1 (g i)
  | .f2 build => .f2 fun nn => g (build nn)
  | .f3 build => .f3 fun hhll => g (build hhll)

/-- Row by row, the format that R54 derives from the pair is the row's own, followed by `Instr.control`. -/
theorem format_of_opcodeTable :
    ∀ row ∈ opcodeTable, row.2.pair.1.format row.2.pair.2 = some (row.2.map Instr.control) := by
  simp only [opcodeTable, opcodeRow0, opcodeRow1, opcodeRow2, opcodeRow3, opcodeRow4, opcodeRow5, opcodeRow6,
    opcodeRow7, opcodeRow8, opcodeRow9, opcodeRowA, opcodeRowB, opcodeRowC, opcodeRowD, opcodeRowE, opcodeRowF,
    List.forall_mem_append, List.forall_mem_cons, List.not_mem_nil, false_implies, implies_true, and_true]
  and_intros <;> rfl

/-- Under the default map the decode stage finds the decoder's instruction, as its control. -/
theorem controlFormat_opcodeMap (b : Byte) :
    controlFormat opcodeMap b = (instrFormat b).map (Format.map Instr.control) := by
  cases h : instrFormat b with
  | none => simp [controlFormat, opcodeMap, h]
  | some f =>
    have hpair : opcodeMap b = some f.pair := by simp [opcodeMap, h]
    rw [controlFormat_of_pair hpair]
    exact format_of_opcodeTable _ (instrFormat_mem h)

end Sys2Proof

namespace Sys2Proof.Machine

theorem exec_eq_execute (i : Instr) (s : State) : exec i s = .next (execute Params.default i.control s) := by
  cases h : i.control with
  | loadImm r w => exact exec_loadImm h s
  | loadMem r m => exact exec_loadMem h s
  | store r m => exact exec_store h s
  | addImm w => exact exec_addImm h s
  | addMem m => exact exec_addMem h s
  | subImm w => exact exec_subImm h s
  | subMem m => exact exec_subMem h s
  | stepMem δ m => exact exec_stepMem h s
  | stepReg r δ => exact exec_stepReg h s
  | shiftAcc op => exact exec_shiftAcc h s
  | shiftMem op m => exact exec_shiftMem h s

theorem fetchOperands_map {ι κ : Type} (g : ι → κ) (f : Format ι) (s : State) :
    fetchOperands (f.map g) s = (g (fetchOperands f s).1, (fetchOperands f s).2) := by
  cases f <;> rfl

/-- Two decode stages that agree up to `g`, with handlers that agree up to `g`, make the same step. -/
theorem stepOf_map {ι κ : Type} (g : ι → κ) {map : FormatMap ι} {map' : FormatMap κ} {run : ι → State → Result}
    {run' : κ → State → Result} (hmap : ∀ b, map' b = (map b).map (Format.map g))
    (hrun : ∀ i t, run i t = run' (g i) t) (s : State) : stepOf map run s = stepOf map' run' s := by
  have hmap' := hmap (s.cell s.pc)
  cases h : map (s.cell s.pc) with
  | none =>
    rw [h] at hmap'
    rw [stepOf_unknown h, stepOf_unknown hmap']
  | some f =>
    rw [h] at hmap'
    rw [stepOf_known h, stepOf_known hmap', fetchOperands_map, hrun]

theorem step_eq_stepWith_default (s : State) : step s = stepWith Params.default s :=
  stepOf_map Instr.control controlFormat_opcodeMap exec_eq_execute s

/-- Settles O41: the two decode stages and the two handlers agree up to `Instr.control`. -/
theorem stepIsTheDefaultInstance : Obligations.StepIsTheDefaultInstance := by
  refine ⟨step_eq_stepWith_default, exec_eq_execute, fun b => ?_⟩
  rw [controlFormat_opcodeMap, Option.map_eq_none_iff]

end Sys2Proof.Machine

/-! ### The two cycle parameters (R7, D9, D10) -/

namespace Sys2Proof.Machine

open Sys2Proof.Spec

/-- Parameters that share the opcode map differ, in a handler, by cycles alone. -/
theorem withoutCycles_execute (p q : Params) (c : Control) (s : State) :
    withoutCycles (execute p c s) = withoutCycles (execute q c s) := by
  rw [execute_eq_effect, execute_eq_effect]
  cases c <;> rfl

theorem stepWith_withoutCycles {p q : Params} (hmap : p.opcodeMap = q.opcodeMap) (s : State) :
    mapState withoutCycles (stepWith p s) = mapState withoutCycles (stepWith q s) := by
  rw [stepWith, stepWith, hmap]
  cases h : controlFormat q.opcodeMap (s.cell s.pc) with
  | none => rw [stepOf_unknown h, stepOf_unknown h]
  | some f =>
    rw [stepOf_known h, stepOf_known h]
    exact congrArg (fun t : State => Host.Outcome.next { t with dispatcher := .fetching })
      (withoutCycles_execute p q _ _)

/-- One operation more on the port is one cycle more. -/
theorem afterOps_one_more {ops more : List BusOp} (h : more.length = ops.length + 1) (s : State) :
    afterOps more s = { afterOps ops s with cyc := (afterOps ops s).cyc + 1, port := s.port ++ more } := by
  rw [afterOps, h, BitVec.ofNat_add, ← BitVec.add_assoc]
  rfl

/-- Settles O59: the parameters reach a handler's cycles only, and `true` adds one idle cycle. -/
theorem cycleParametersChangeOnlyTheCount : Obligations.CycleParametersChangeOnlyTheCount := by
  refine ⟨fun p imm rmw s => stepWith_withoutCycles (by rfl) s, fun s w r δ m => ⟨?_, ?_, ?_, ?_⟩⟩
  · rw [loadImm_eq, loadImm_eq, afterOps_one_more (ops := idleOps false) rfl]
    exact ⟨_, rfl⟩
  · rw [addImm_eq, addImm_eq, afterOps_one_more (ops := idleOps false) rfl]
    exact ⟨_, rfl⟩
  · rw [subImm_eq, subImm_eq, afterOps_one_more (ops := idleOps false) rfl]
    exact ⟨_, rfl⟩
  · rw [stepMem_eq, stepMem_eq, afterOps_one_more (ops := resolverOps m s ++ readOp m s :: idleOps false ++
      [.write (effectiveAddress m s) (stepped δ (s.cell (effectiveAddress m s)))]) (by simp [idleOps])]
    exact ⟨_, rfl⟩

end Sys2Proof.Machine

/-! # Proofs of the state statements (spec/10_state.md)

First what every handler keeps, does on the port and does to N and Z, from its effect; then how many cycles a
pair takes; then what a step can answer, in two cases. The obligations follow from these. -/

/-! ### What every handler leaves unchanged -/

namespace Sys2Proof.Machine

open Sys2Proof.Spec

@[simp] theorem withNZ_pc (w : Byte) (s : State) : (withNZ w s).pc = s.pc := rfl
@[simp] theorem withNZ_sp (w : Byte) (s : State) : (withNZ w s).sp = s.sp := rfl
@[simp] theorem withNZ_v (w : Byte) (s : State) : (withNZ w s).v = s.v := rfl
@[simp] theorem withNZ_b (w : Byte) (s : State) : (withNZ w s).b = s.b := rfl
@[simp] theorem withNZ_d (w : Byte) (s : State) : (withNZ w s).d = s.d := rfl
@[simp] theorem withNZ_i (w : Byte) (s : State) : (withNZ w s).i = s.i := rfl
@[simp] theorem withNZ_c (w : Byte) (s : State) : (withNZ w s).c = s.c := rfl
@[simp] theorem withNZ_mem (w : Byte) (s : State) : (withNZ w s).mem = s.mem := rfl
@[simp] theorem withNZ_cyc (w : Byte) (s : State) : (withNZ w s).cyc = s.cyc := rfl
@[simp] theorem withNZ_dispatcher (w : Byte) (s : State) : (withNZ w s).dispatcher = s.dispatcher := rfl
@[simp] theorem withNZ_port (w : Byte) (s : State) : (withNZ w s).port = s.port := rfl

theorem describesNZ_withNZ (w : Byte) (s : State) : DescribesNZ (withNZ w s) w := ⟨rfl, rfl⟩

/-- No byte is both 0 and 128 or more. -/
theorem not_n_and_z_of_describesNZ {t : State} {w : Byte} (h : DescribesNZ t w) :
    ¬(t.n = true ∧ t.z = true) := by
  obtain ⟨hn, hz⟩ := h
  rw [hn, hz, decide_eq_true_eq, decide_eq_true_eq]
  omega

@[simp] theorem execute_pc (p : Params) (c : Control) (s : State) : (execute p c s).pc = s.pc := by
  rw [execute_eq_effect]
  cases c <;> simp [effect, withSum]

@[simp] theorem execute_sp (p : Params) (c : Control) (s : State) : (execute p c s).sp = s.sp := by
  rw [execute_eq_effect]
  cases c <;> simp [effect, withSum]

@[simp] theorem execute_b (p : Params) (c : Control) (s : State) : (execute p c s).b = s.b := by
  rw [execute_eq_effect]
  cases c <;> simp [effect, withSum]

@[simp] theorem execute_d (p : Params) (c : Control) (s : State) : (execute p c s).d = s.d := by
  rw [execute_eq_effect]
  cases c <;> simp [effect, withSum]

@[simp] theorem execute_i (p : Params) (c : Control) (s : State) : (execute p c s).i = s.i := by
  rw [execute_eq_effect]
  cases c <;> simp [effect, withSum]

/-- A handler writes at most one cell. -/
theorem execute_mem (p : Params) (c : Control) (s : State) :
    (execute p c s).mem = s.mem ∨ ∃ q w, (execute p c s).mem = (s.setCell q w).mem := by
  rw [execute_eq_effect]
  cases c with
  | loadImm r w | loadMem r m | stepReg r δ => exact .inl (setReg_mem _ _ _)
  | addImm w | addMem m | subImm w | subMem m | shiftAcc op => exact .inl rfl
  | store r m | stepMem δ m | shiftMem op m => exact .inr ⟨_, _, rfl⟩

theorem execute_mem_wf (p : Params) (c : Control) {s : State} (h : s.mem.wf = true) :
    (execute p c s).mem.wf = true := by
  obtain hmem | ⟨q, w, hmem⟩ := execute_mem p c s
  · rw [hmem, h]
  · rw [hmem, setCell_wf s q w h]

/-- A handler leaves N and Z, or sets both from one value (R84). -/
theorem execute_nz (p : Params) (c : Control) (s : State) :
    ((execute p c s).n = s.n ∧ (execute p c s).z = s.z) ∨ ∃ w, DescribesNZ (execute p c s) w := by
  rw [execute_eq_effect]
  cases c with
  | store r m => exact .inl ⟨rfl, rfl⟩
  | _ => exact .inr ⟨_, describesNZ_withNZ _ _⟩

theorem execute_not_n_and_z (p : Params) (c : Control) {s : State} (h : ¬(s.n = true ∧ s.z = true)) :
    ¬((execute p c s).n = true ∧ (execute p c s).z = true) := by
  obtain ⟨hn, hz⟩ | ⟨w, hw⟩ := execute_nz p c s
  · rwa [hn, hz]
  · exact not_n_and_z_of_describesNZ hw

/-- Settles O31: B, D and I by what every handler leaves, the others family by family. -/
theorem flagsAreWrittenOnlyByTheirInstructions : Obligations.FlagsAreWrittenOnlyByTheirInstructions := by
  intro i s t h
  rw [exec_eq_execute] at h
  cases h
  refine ⟨execute_b _ _ _, execute_d _ _ _, execute_i _ _ _, ?_⟩
  rw [execute_eq_effect]
  cases i.control with
  | addImm w | addMem m | subImm w | subMem m => trivial
  | shiftAcc op | shiftMem op m => rfl
  | loadImm r w | loadMem r m | stepReg r δ => exact ⟨setReg_v _ _ _, setReg_c _ _ _⟩
  | stepMem δ m => exact ⟨rfl, rfl⟩
  | store r m => exact ⟨rfl, rfl, rfl, rfl⟩

/-! ### What a handler does on the port (R158), and what its operations depend on -/

/-- The port carries the operations of the table. -/
theorem execute_port (p : Params) (c : Control) (s : State) :
    (execute p c s).port = s.port ++ execOps p c s := by
  rw [execute_eq_effect]
  cases c <;> simp [effect, withSum, execOps, applyDelta_eq_stepped, applyShift_eq_shifted]

/-- One cycle for each of them. -/
theorem execute_cyc (p : Params) (c : Control) (s : State) :
    (execute p c s).cyc = s.cyc + BitVec.ofNat 8 (execOps p c s).length := by
  rw [execute_eq_effect]
  cases c <;> simp [effect, withSum, execOps]

section

variable {s t : State} (hx : t.x = s.x) (hy : t.y = s.y) (hmem : t.mem = s.mem)

include hx hy hmem

theorem effectiveAddress_congr (m : MemOperand) : effectiveAddress m t = effectiveAddress m s := by
  cases m <;> simp only [effectiveAddress, pointerWord, hx, hy, cell_of_mem_eq hmem]

theorem crosses_congr (m : MemOperand) : crosses m t = crosses m s := by
  cases m <;> simp only [crosses, pointerWord, hx, hy, cell_of_mem_eq hmem]

theorem resolverOps_congr (m : MemOperand) : resolverOps m t = resolverOps m s := by
  cases m <;> simp only [resolverOps, pointerOps, crosses_congr hx hy hmem, hx, cell_of_mem_eq hmem]

theorem readOp_congr (m : MemOperand) : readOp m t = readOp m s := by
  simp only [readOp, effectiveAddress_congr hx hy hmem, cell_of_mem_eq hmem]

/-- A handler's operations are the same on states with the same registers, carry and memory. -/
theorem execOps_congr (ha : t.a = s.a) (hc : t.c = s.c) (p : Params) (c : Control) :
    execOps p c t = execOps p c s := by
  have hreg : ∀ r, t.reg r = s.reg r := fun r => by cases r <;> assumption
  cases c <;> simp only [execOps, resolverOps_congr hx hy hmem, readOp_congr hx hy hmem,
    effectiveAddress_congr hx hy hmem, cell_of_mem_eq hmem, hreg, hc]

end

theorem execOps_afterFetches (p : Params) (c : Control) (k : Nat) (s : State) :
    execOps p c (afterFetches k s) = execOps p c s :=
  execOps_congr (s := s) (t := afterFetches k s) rfl rfl rfl rfl rfl p c

end Sys2Proof.Machine

/-! ### How many operations a pair has (R52, R158, R199) -/

namespace Sys2Proof

/-- The mode that hands this operand to the resolver (R74, R76 to R81). -/
def MemOperand.mode : MemOperand → Mode
  | .zp _ => .zp
  | .zpx _ => .zpx
  | .zpy _ => .zpy
  | .abs _ => .abs
  | .abx _ => .abx
  | .aby _ => .aby
  | .izx _ => .izx
  | .izy _ => .izy

/-- What a format can build from operand bytes (R51). -/
def Format.Builds {ι : Type} : Format ι → ι → Prop
  | .f1 i, j => j = i
  | .f2 build, j => ∃ nn, j = build nn
  | .f3 build, j => ∃ hhll, j = build hhll

theorem Format.builds_of_read {ι : Type} {f : Format ι} {bytes rest : List Byte} {i : ι}
    (h : f.read bytes = .instr i rest) : f.Builds i := by
  match f, bytes, h with
  | .f1 j, _, h => cases h; exact rfl
  | .f2 build, nn :: _, h => cases h; exact ⟨nn, rfl⟩
  | .f3 build, ll :: hh :: _, h => cases h; exact ⟨wordOfBytes ll hh, rfl⟩

theorem memFormat_builds {handler : MemOperand → Control} {md : Mode} {f : Format Control} {c : Control}
    (hf : memFormat handler md = some f) (hc : f.Builds c) : ∃ m, c = handler m ∧ m.mode = md := by
  cases md with
  | imp | acc | imm => cases hf
  | _ =>
    cases hf
    obtain ⟨operand, rfl⟩ := hc
    exact ⟨_, rfl, rfl⟩

theorem valueFormat_builds {value : Byte → Control} {handler : MemOperand → Control} {md : Mode}
    {f : Format Control} {c : Control} (hf : valueFormat value handler md = some f) (hc : f.Builds c) :
    (md = .imm ∧ ∃ w, c = value w) ∨ ∃ m, c = handler m ∧ m.mode = md := by
  unfold valueFormat at hf
  split at hf
  case isTrue himm => cases hf; exact .inl ⟨himm, hc⟩
  case isFalse => exact .inr (memFormat_builds hf hc)

theorem shiftFormat_builds {op : ShiftOp} {md : Mode} {f : Format Control} {c : Control}
    (hf : shiftFormat op md = some f) (hc : f.Builds c) :
    (md = .acc ∧ c = .shiftAcc op) ∨ ∃ m, c = .shiftMem op m ∧ m.mode = md := by
  unfold shiftFormat at hf
  split at hf
  case isTrue hacc => cases hf; exact .inl ⟨hacc, hc⟩
  case isFalse => exact .inr (memFormat_builds hf hc)

theorem stepRegFormat_builds {r : Reg} {δ : Delta} {md : Mode} {f : Format Control} {c : Control}
    (hf : stepRegFormat r δ md = some f) (hc : f.Builds c) : md = .imp ∧ c = .stepReg r δ := by
  unfold stepRegFormat at hf
  split at hf
  case isTrue himp => cases hf; exact ⟨himp, hc⟩
  case isFalse => cases hf

theorem MemOperand.mode_ne_imm (m : MemOperand) : m.mode ≠ .imm := by cases m <;> nofun

theorem MemOperand.mode_ne_acc (m : MemOperand) : m.mode ≠ .acc := by cases m <;> nofun

end Sys2Proof

namespace Sys2Proof.Machine

open Sys2Proof.Spec

theorem idleOps_length (k : Bool) : (idleOps k).length = k.toNat := by cases k <;> rfl

/-- Operand fetches and resolver together take `addr(mode)` and the crossing cycle. -/
theorem operandBytes_add_resolverOps_length (m : MemOperand) (s : State) :
    m.mode.operandBytes + (resolverOps m s).length = addrCycles m.mode + (crosses m s).toNat := by
  cases m with
  | zp nn | abs hhll | zpx nn | zpy nn | izx nn => rfl
  | abx hhll | aby hhll =>
    simp only [MemOperand.mode, Mode.operandBytes, resolverOps, idleOps_length, addrCycles]
  | izy nn =>
    simp only [MemOperand.mode, Mode.operandBytes, resolverOps, pointerOps, List.length_append,
      List.length_cons, List.length_nil, idleOps_length, addrCycles]
    omega

/-- The operations on the port are as many as the formula of R199 counts, whichever the pair. -/
theorem operations_of_pair {mn : Mnemonic} {md : Mode} {f : Format Control} {c : Control}
    (hf : mn.format md = some f) (hc : f.Builds c) (p : Params) (s : State) :
    1 + md.operandBytes + (execOps p c s).length = cycleCount p mn md c s := by
  cases mn with
  | lda | ldx | ldy | adc | sbc =>
    obtain ⟨rfl, w, rfl⟩ | ⟨m, rfl, rfl⟩ := valueFormat_builds hf hc
    · simp only [execOps, idleOps_length]
      rfl
    · have := operandBytes_add_resolverOps_length m s
      simp only [execOps, List.length_append, List.length_cons, List.length_nil, cycleCount, crossCycle,
        memOperandOf, handlerCycles, m.mode_ne_imm, if_false]
      omega
  | sta | stx | sty =>
    obtain ⟨m, rfl, rfl⟩ := memFormat_builds hf hc
    have := operandBytes_add_resolverOps_length m s
    simp only [execOps, List.length_append, List.length_cons, List.length_nil, cycleCount, crossCycle,
      memOperandOf, handlerCycles]
    omega
  | inc | dec =>
    obtain ⟨m, rfl, rfl⟩ := memFormat_builds hf hc
    have := operandBytes_add_resolverOps_length m s
    simp only [execOps, List.length_append, List.length_cons, List.length_nil, idleOps_length, cycleCount,
      crossCycle, memOperandOf, handlerCycles]
    omega
  | inx | iny | dex | dey =>
    obtain ⟨rfl, rfl⟩ := stepRegFormat_builds hf hc
    rfl
  | asl | lsr | rol | ror =>
    obtain ⟨rfl, rfl⟩ | ⟨m, rfl, rfl⟩ := shiftFormat_builds hf hc
    · rfl
    · have := operandBytes_add_resolverOps_length m s
      simp only [execOps, List.length_append, List.length_cons, List.length_nil, cycleCount, crossCycle,
        memOperandOf, handlerCycles, m.mode_ne_acc, if_false]
      omega

/-! ### Bounds on the formula (R16, R155) -/

/-- A pair's memory operand, where it has one, is of the pair's mode. -/
theorem mode_of_memOperandOf {mn : Mnemonic} {md : Mode} {f : Format Control} {c : Control} {m : MemOperand}
    (hf : mn.format md = some f) (hc : f.Builds c) (hm : memOperandOf c = some m) : m.mode = md := by
  cases mn with
  | lda | ldx | ldy | adc | sbc =>
    obtain ⟨-, w, rfl⟩ | ⟨m', rfl, hmode⟩ := valueFormat_builds hf hc <;> cases hm
    exact hmode
  | sta | stx | sty | inc | dec =>
    obtain ⟨m', rfl, hmode⟩ := memFormat_builds hf hc
    cases hm
    exact hmode
  | inx | iny | dex | dey =>
    obtain ⟨-, rfl⟩ := stepRegFormat_builds hf hc
    cases hm
  | asl | lsr | rol | ror =>
    obtain ⟨-, rfl⟩ | ⟨m', rfl, hmode⟩ := shiftFormat_builds hf hc <;> cases hm
    exact hmode

/-- Only the pointer modes take four cycles. -/
theorem addrCycles_add_crosses_le (m : MemOperand) (s : State) :
    addrCycles m.mode + (crosses m s).toNat ≤ 4 ∧
      (m.mode ≠ .izx → m.mode ≠ .izy → addrCycles m.mode + (crosses m s).toNat ≤ 3) := by
  have hcross := Bool.toNat_le (crosses m s)
  cases m with
  | zp nn | zpx nn | zpy nn | abs hhll | izx nn => simp [MemOperand.mode, addrCycles, crosses]
  | abx hhll | aby hhll =>
    simp only [MemOperand.mode, addrCycles]
    omega
  | izy nn =>
    refine ⟨?_, fun _ h => absurd rfl h⟩
    simp only [MemOperand.mode, addrCycles]
    omega

theorem addrCycles_add_crossCycle_le {mn : Mnemonic} {md : Mode} {f : Format Control} {c : Control}
    (hf : mn.format md = some f) (hc : f.Builds c) (s : State) :
    addrCycles md + crossCycle c s ≤ 4 ∧
      (md ≠ .izx → md ≠ .izy → addrCycles md + crossCycle c s ≤ 3) := by
  cases hm : memOperandOf c with
  | none =>
    simp only [crossCycle, hm]
    cases md <;> simp [addrCycles]
  | some m =>
    simp only [crossCycle, hm, ← mode_of_memOperandOf hf hc hm]
    exact addrCycles_add_crosses_le m s

theorem handlerCycles_le_three (p : Params) (mn : Mnemonic) (md : Mode) : handlerCycles p mn md ≤ 3 := by
  have himm := Bool.toNat_le p.immHandlerCycle
  have hrmw := Bool.toNat_le p.rmwExtraCycle
  cases mn with
  | lda | ldx | ldy | adc | sbc | asl | lsr | rol | ror =>
    simp only [handlerCycles]
    split <;> omega
  | sta | stx | sty | inx | iny | dex | dey => simp [handlerCycles]
  | inc | dec =>
    simp only [handlerCycles]
    omega

/-- In the matrix of R55 a handler of more than one cycle never meets a pointer mode. -/
theorem handlerCycles_le_one_or {mn : Mnemonic} {md : Mode} (hmd : md ∈ mn.modes) (p : Params) :
    handlerCycles p mn md ≤ 1 ∨ (md ≠ .izx ∧ md ≠ .izy) := by
  have himm := Bool.toNat_le p.immHandlerCycle
  cases mn with
  | lda | ldx | ldy | adc | sbc =>
    refine .inl ?_
    simp only [handlerCycles]
    split <;> omega
  | sta | stx | sty | inx | iny | dex | dey => exact .inl (by simp [handlerCycles])
  | inc | dec | asl | lsr | rol | ror =>
    refine .inr ⟨?_, ?_⟩ <;> rintro rfl <;> revert hmd <;> decide

theorem one_le_cycleCount (p : Params) (mn : Mnemonic) (md : Mode) (c : Control) (s : State) :
    1 ≤ cycleCount p mn md c s := by
  unfold cycleCount
  omega

theorem cycleCount_le_eight {mn : Mnemonic} {md : Mode} {f : Format Control} {c : Control}
    (hf : mn.format md = some f) (hc : f.Builds c) (p : Params) (s : State) :
    cycleCount p mn md c s ≤ 8 := by
  have haddr := (addrCycles_add_crossCycle_le hf hc s).1
  have hhandler := handlerCycles_le_three p mn md
  unfold cycleCount
  omega

theorem cycleCount_le_seven {mn : Mnemonic} {md : Mode} {f : Format Control} {c : Control}
    (hf : mn.format md = some f) (hc : f.Builds c) (hmd : md ∈ mn.modes) (p : Params) (s : State) :
    cycleCount p mn md c s ≤ 7 := by
  obtain ⟨hany, hplain⟩ := addrCycles_add_crossCycle_le hf hc s
  have hhandler := handlerCycles_le_three p mn md
  unfold cycleCount
  obtain hone | ⟨hizx, hizy⟩ := handlerCycles_le_one_or hmd p
  · omega
  · have := hplain hizx hizy
    omega

end Sys2Proof.Machine

/-! ### What a step can answer (R70, R171) -/

namespace Sys2Proof.Machine

open Sys2Proof.Spec

/-- The state that the step of a pair leaves. -/
def afterStep (p : Params) (md : Mode) (c : Control) (s : State) : State :=
  { execute p c (afterFetches (1 + md.operandBytes) s) with dispatcher := .fetching }

theorem stepWith_of_pair {p : Params} {s : State} {mn : Mnemonic} {md : Mode} {c : Control}
    (h : PairAtPC p s mn md c) : stepWith p s = .next (afterStep p md c s) :=
  stepWithRunsTheMappedPair p s mn md c h

/-- The state that a step leaves when it reports an unknown opcode (R172). -/
def afterUnknown (s : State) : State :=
  { s with pc := s.pc + 1, cyc := 1, dispatcher := .fetching, port := [.read s.pc (s.cell s.pc)] }

theorem stepWith_of_unknown {p : Params} {s : State} (h : controlFormat p.opcodeMap (s.cell s.pc) = none) :
    stepWith p s = .fault (.unknownOpcode (s.cell s.pc) (afterUnknown s)) := by
  rw [stepWith, stepOf_unknown h]
  rfl

/-- Memory never ends: two bytes are enough for any format. -/
theorem read_two_bytes {ι : Type} (f : Format ι) (b b' : Byte) : ∃ i rest, f.read [b, b'] = .instr i rest := by
  cases f <;> exact ⟨_, _, rfl⟩

/-- The byte at `PC` has no handler, or there is a pair at `PC`. -/
theorem unknown_or_pairAtPC (p : Params) (s : State) :
    controlFormat p.opcodeMap (s.cell s.pc) = none ∨ ∃ mn md c, PairAtPC p s mn md c := by
  cases hformat : controlFormat p.opcodeMap (s.cell s.pc) with
  | none => exact .inl rfl
  | some f =>
    obtain ⟨mn, md, hpair, hf⟩ := controlFormat_some hformat
    obtain ⟨c, rest, hread⟩ := read_two_bytes f (s.cell (s.pc + 1)) (s.cell (s.pc + 2))
    exact .inr ⟨mn, md, c, hpair, f, rest, hf, hread⟩

@[simp] theorem afterStep_pc (p : Params) (md : Mode) (c : Control) (s : State) :
    (afterStep p md c s).pc = s.pc + BitVec.ofNat 16 (1 + md.operandBytes) :=
  execute_pc p c _

@[simp] theorem afterStep_sp (p : Params) (md : Mode) (c : Control) (s : State) :
    (afterStep p md c s).sp = s.sp :=
  execute_sp p c _

@[simp] theorem afterStep_dispatcher (p : Params) (md : Mode) (c : Control) (s : State) :
    (afterStep p md c s).dispatcher = .fetching := rfl

/-- The port after the step of a pair, as the table of R158 has it on the state before. -/
theorem afterStep_port (p : Params) (md : Mode) (c : Control) (s : State) :
    (afterStep p md c s).port = fetchOps (1 + md.operandBytes) s.pc s ++ execOps p c s := by
  rw [← execOps_afterFetches p c (1 + md.operandBytes) s]
  exact execute_port p c _

theorem fetchOps_length (k : Nat) (q : Addr) (s : State) : (fetchOps k q s).length = k := by
  induction k generalizing q with
  | zero => rfl
  | succ k ih => rw [fetchOps, List.length_cons, ih]

theorem afterStep_cyc (p : Params) (md : Mode) (c : Control) (s : State) :
    (afterStep p md c s).cyc = BitVec.ofNat 8 (afterStep p md c s).port.length := by
  rw [afterStep_port, List.length_append, fetchOps_length, BitVec.ofNat_add,
    ← execOps_afterFetches p c (1 + md.operandBytes) s]
  exact execute_cyc p c _

theorem afterStep_port_length {p : Params} {s : State} {mn : Mnemonic} {md : Mode} {c : Control}
    (h : PairAtPC p s mn md c) : (afterStep p md c s).port.length = cycleCount p mn md c s := by
  obtain ⟨-, f, rest, hf, hread⟩ := h
  rw [afterStep_port, List.length_append, fetchOps_length]
  exact operations_of_pair hf (Format.builds_of_read hread) p s

theorem pairAtPC_cycleCount_le {p : Params} {s : State} {mn : Mnemonic} {md : Mode} {c : Control}
    (h : PairAtPC p s mn md c) :
    cycleCount p mn md c s ≤ 8 ∧ (md ∈ mn.modes → cycleCount p mn md c s ≤ 7) := by
  obtain ⟨-, f, rest, hf, hread⟩ := h
  have hc := Format.builds_of_read hread
  exact ⟨cycleCount_le_eight hf hc p s, fun hmd => cycleCount_le_seven hf hc hmd p s⟩

/-- The count is that of R199, and 8 bits hold it. -/
theorem afterStep_cyc_toNat {p : Params} {s : State} {mn : Mnemonic} {md : Mode} {c : Control}
    (h : PairAtPC p s mn md c) : (afterStep p md c s).cyc.toNat = cycleCount p mn md c s := by
  have hle := (pairAtPC_cycleCount_le h).1
  rw [afterStep_cyc, afterStep_port_length h, BitVec.toNat_ofNat, Nat.mod_eq_of_lt (by omega)]

end Sys2Proof.Machine

/-! ### The instruction at `PC` is the pair of the default map -/

namespace Sys2Proof

theorem Format.read_map {ι κ : Type} {f : Format ι} {bytes rest : List Byte} {i : ι} (g : ι → κ)
    (h : f.read bytes = .instr i rest) : (f.map g).read bytes = .instr (g i) rest := by
  match f, bytes, h with
  | .f1 _, _, h => cases h; rfl
  | .f2 _, _ :: _, h => cases h; rfl
  | .f3 _, _ :: _ :: _, h => cases h; rfl

/-- Row by row, the pair does not depend on the operand. -/
theorem pair_of_opcodeTable :
    ∀ row ∈ opcodeTable, ∀ i, row.2.Builds i → row.2.pair = (i.mnemonic, i.mode) := by
  simp only [opcodeTable, opcodeRow0, opcodeRow1, opcodeRow2, opcodeRow3, opcodeRow4, opcodeRow5, opcodeRow6,
    opcodeRow7, opcodeRow8, opcodeRow9, opcodeRowA, opcodeRowB, opcodeRowC, opcodeRowD, opcodeRowE, opcodeRowF,
    List.forall_mem_append, List.forall_mem_cons, List.not_mem_nil, false_implies, implies_true, and_true,
    Format.Builds, forall_eq, forall_exists_index, forall_eq_apply_imp_iff]
  and_intros <;> intros <;> rfl

end Sys2Proof

namespace Sys2Proof.Machine

open Sys2Proof.Spec

theorem withinMatrix_default : WithinMatrix Params.default := by
  have htable : ∀ row ∈ opcodeTable, row.2.pair.2 ∈ row.2.pair.1.modes := by decide
  intro b mn md h
  obtain ⟨f, hf, hpair⟩ := Option.map_eq_some_iff.1 h
  have hrow := htable _ (instrFormat_mem hf)
  rwa [hpair] at hrow

theorem pairAtPC_of_instrAtPC {s : State} {i : Instr} (h : InstrAtPC s i) :
    PairAtPC Params.default s i.mnemonic i.mode i.control := by
  obtain ⟨rest, hdecode⟩ := h
  cases hf : instrFormat (s.cell s.pc) with
  | none => simp [decode, decodeWith, hf] at hdecode
  | some f =>
    have hread : f.read [s.cell (s.pc + 1), s.cell (s.pc + 2)] = .instr i rest := by
      simpa only [decode, decodeWith, hf] using hdecode
    have hrow := instrFormat_mem hf
    have hpair := pair_of_opcodeTable _ hrow i (Format.builds_of_read hread)
    have hformat := format_of_opcodeTable _ hrow
    rw [hpair] at hformat
    exact ⟨Option.map_eq_some_iff.2 ⟨f, hf, hpair⟩, f.map Instr.control, rest, hformat,
      Format.read_map _ hread⟩

theorem afterStep_pc_toNat (p : Params) (md : Mode) (c : Control) (s : State) :
    (afterStep p md c s).pc.toNat = (s.pc.toNat + 1 + md.operandBytes) % 65536 := by
  rw [afterStep_pc, BitVec.toNat_add, BitVec.toNat_ofNat]
  omega

theorem operandBytes_le_two (md : Mode) : md.operandBytes ≤ 2 := by cases md <;> decide

/-- The step of a pair: `PC` by the fetches, the count by the bounds on the formula of R199. -/
theorem stepWith_completes_of_pair {p : Params} {s : State} {mn : Mnemonic} {md : Mode} {c : Control}
    (h : PairAtPC p s mn md c) :
    ∃ t, stepWith p s = .next t ∧ t.pc.toNat = (s.pc.toNat + 1 + md.operandBytes) % 65536 ∧
      1 ≤ t.cyc.toNat ∧ t.cyc.toNat ≤ 8 ∧ (md ∈ mn.modes → t.cyc.toNat ≤ 7) ∧ t.dispatcher = .fetching := by
  obtain ⟨height, hseven⟩ := pairAtPC_cycleCount_le h
  rw [← afterStep_cyc_toNat h] at height hseven
  have hone : 1 ≤ (afterStep p md c s).cyc.toNat := by
    rw [afterStep_cyc_toNat h]
    exact one_le_cycleCount p mn md c s
  exact ⟨afterStep p md c s, stepWith_of_pair h, afterStep_pc_toNat p md c s, hone, height, hseven,
    afterStep_dispatcher p md c s⟩

/-- Settles O44: the instruction at `PC` is a pair of the default map, which is within the matrix. -/
theorem knownStepAdvancesByLength : Obligations.KnownStepAdvancesByLength := by
  refine ⟨fun s i h => ?_, fun p s mn md c => stepWith_completes_of_pair⟩
  have hpair := pairAtPC_of_instrAtPC h
  obtain ⟨t, hstep, hpc, hone, -, hseven, hdispatcher⟩ := stepWith_completes_of_pair hpair
  have hmd : i.mode ∈ i.mnemonic.modes := withinMatrix_default _ _ _ hpair.1
  have hlength : i.length = 1 + i.mode.operandBytes := rfl
  have htwo := operandBytes_le_two i.mode
  refine ⟨t, ?_, ?_, by omega, by omega, hone, hseven hmd, hdispatcher⟩
  · rw [step_eq_stepWith_default, hstep]
  · rw [hpc, hlength, Nat.add_assoc]

/-! ### The invariant holds after reset and every step keeps it (R16, R17, R18, R84) -/

theorem invUpTo_afterStep {p : Params} {s : State} {mn : Mnemonic} {md : Mode} {c : Control} {most most' : Nat}
    (hs : InvUpTo most s) (hpair : PairAtPC p s mn md c) (hmost : cycleCount p mn md c s ≤ most') :
    InvUpTo most' (afterStep p md c s) := by
  obtain ⟨hmem, -, -, -, hnz, hb, hd, hi⟩ := hs
  refine ⟨execute_mem_wf p c hmem, rfl, ?_, ?_, execute_not_n_and_z p c hnz, (execute_b p c _).trans hb,
    (execute_d p c _).trans hd, (execute_i p c _).trans hi⟩
  · rw [afterStep_cyc_toNat hpair, afterStep_port_length hpair]
  · rwa [afterStep_port_length hpair]

theorem invUpTo_afterUnknown {s : State} {most most' : Nat} (hs : InvUpTo most s) (hmost : 1 ≤ most') :
    InvUpTo most' (afterUnknown s) := by
  obtain ⟨hmem, -, -, -, hnz, hb, hd, hi⟩ := hs
  exact ⟨hmem, rfl, rfl, hmost, hnz, hb, hd, hi⟩

/-- Settles O51: the two answers of a step, under the default map, which is within the matrix. -/
theorem stepKeepsTheInvariant : Obligations.StepKeepsTheInvariant := by
  intro s hs
  rw [step_eq_stepWith_default]
  obtain hunknown | ⟨mn, md, c, hpair⟩ := unknown_or_pairAtPC Params.default s
  · rw [stepWith_of_unknown hunknown]
    refine ⟨fun t h => (by cases h), fun byte t h => ?_⟩
    cases h
    exact invUpTo_afterUnknown hs (by omega)
  · rw [stepWith_of_pair hpair]
    refine ⟨fun t h => ?_, fun byte t h => (by cases h)⟩
    cases h
    exact invUpTo_afterStep hs hpair ((pairAtPC_cycleCount_le hpair).2 (withinMatrix_default _ _ _ hpair.1))

/-- Settles O50: memory is the one given, the rest as `State.resetAt` writes it. -/
theorem resetMeetsTheInvariant : Obligations.ResetMeetsTheInvariant := by
  have hreset : ∀ (entry sp : Addr) (m : Memory), m.wf = true → Inv (State.resetAt entry sp m) :=
    fun _ _ _ hm => ⟨hm, rfl, rfl, Nat.zero_le 7, fun h => Bool.false_ne_true h.1, rfl, rfl, rfl⟩
  exact ⟨hreset, hreset _ _ _ reset_wf⟩

end Sys2Proof.Machine

/-! ### SP, B, D and I reach nothing (R12, R14, R122) -/

namespace Sys2Proof.Machine

open Sys2Proof.Spec

section

variable (sp : Addr) (b d i : Bool) (s : State)

theorem cell_withInert (q : Addr) : (withInert sp b d i s).cell q = s.cell q := rfl

theorem reg_withInert (r : Reg) : (withInert sp b d i s).reg r = s.reg r := by cases r <;> rfl

theorem setReg_withInert (r : Reg) (w : Byte) :
    (withInert sp b d i s).setReg r w = withInert sp b d i (s.setReg r w) := by cases r <;> rfl

theorem effectiveAddress_withInert (m : MemOperand) :
    effectiveAddress m (withInert sp b d i s) = effectiveAddress m s :=
  effectiveAddress_congr (s := s) (t := withInert sp b d i s) rfl rfl rfl m

theorem resolverOps_withInert (m : MemOperand) : resolverOps m (withInert sp b d i s) = resolverOps m s :=
  resolverOps_congr (s := s) (t := withInert sp b d i s) rfl rfl rfl m

theorem readOp_withInert (m : MemOperand) : readOp m (withInert sp b d i s) = readOp m s :=
  readOp_congr (s := s) (t := withInert sp b d i s) rfl rfl rfl m

theorem execute_withInert (p : Params) (c : Control) :
    execute p c (withInert sp b d i s) = withInert sp b d i (execute p c s) := by
  rw [execute_eq_effect, execute_eq_effect]
  cases c <;> simp only [effect, cell_withInert, reg_withInert, setReg_withInert, effectiveAddress_withInert,
    resolverOps_withInert, readOp_withInert] <;> rfl

theorem fetchOps_withInert (k : Nat) (q : Addr) : fetchOps k q (withInert sp b d i s) = fetchOps k q s := by
  induction k generalizing q with
  | zero => rfl
  | succ k ih => rw [fetchOps, ih, fetchOps, cell_withInert]

theorem afterFetches_withInert (k : Nat) :
    afterFetches k (withInert sp b d i s) = withInert sp b d i (afterFetches k s) := by
  rw [afterFetches, fetchOps_withInert]
  rfl

theorem afterStep_withInert (p : Params) (md : Mode) (c : Control) :
    afterStep p md c (withInert sp b d i s) = withInert sp b d i (afterStep p md c s) := by
  rw [afterStep, afterFetches_withInert, execute_withInert]
  rfl

theorem stepWith_withInert (p : Params) :
    stepWith p (withInert sp b d i s) = mapState (withInert sp b d i) (stepWith p s) := by
  obtain hunknown | ⟨mn, md, c, hpair⟩ := unknown_or_pairAtPC p s
  · have hunknown' : controlFormat p.opcodeMap ((withInert sp b d i s).cell (withInert sp b d i s).pc) = none :=
      hunknown
    rw [stepWith_of_unknown hunknown, stepWith_of_unknown hunknown']
    rfl
  · have hpair' : PairAtPC p (withInert sp b d i s) mn md c := hpair
    rw [stepWith_of_pair hpair, stepWith_of_pair hpair', afterStep_withInert]
    rfl

end

theorem storeBytes_sp (bytes : List Byte) (s : State) (q : Addr) : (s.storeBytes q bytes).sp = s.sp := by
  induction bytes generalizing s q with
  | nil => rfl
  | cons w rest ih => rw [State.storeBytes, ih, setCell_sp]

theorem hostLoad_sp (q : Addr) (bytes : List Byte) (k : Block) : (hostLoad q bytes k).2.core.sp = k.core.sp := by
  unfold hostLoad
  split
  · exact storeBytes_sp bytes k.core q
  · rfl

theorem hostStep_sp (p : Params) (k : Block) : (hostStep p k).2.core.sp = k.core.sp := by
  unfold hostStep
  split
  · obtain hunknown | ⟨mn, md, c, hpair⟩ := unknown_or_pairAtPC p k.core
    · rw [stepWith_of_unknown hunknown]
      rfl
    · rw [stepWith_of_pair hpair]
      exact afterStep_sp p md c k.core
  · rfl

/-- Settles O48: the step commutes with a change of the inert fields; of the transactions, one by one, reset
alone writes SP. -/
theorem inertStateIsNeverReadNorWritten : Obligations.InertStateIsNeverReadNorWritten := by
  refine ⟨fun s sp b d i => ⟨?_, stepWith_withInert sp b d i s⟩, fun p tr k => ?_, fun s => rfl⟩
  · rw [step_eq_stepWith_default, step_eq_stepWith_default, stepWith_withInert]
  · cases tr with
    | reset => rfl
    | load q bytes => exact hostLoad_sp q bytes k
    | step => exact hostStep_sp p k
    | observe | readCell q => rfl

end Sys2Proof.Machine

/-! # Proofs of the memory statements (spec/20_memory.md)

First the memory port, operation by operation; then the address sums in numbers, with their wraps; then what
a step writes and what reads it back. -/

/-! ### The memory port (R31 to R35, R72, R174) -/

namespace Sys2Proof.Machine

open Sys2Proof.Spec

/-- Settles O8: `memRead` is one tick of the port. -/
theorem memReadReturnsTheCell : Obligations.MemReadReturnsTheCell := fun _ _ => rfl

/-- Settles O9: a read after a write, at the address and at another. -/
theorem memWriteStoresOneCell : Obligations.MemWriteStoresOneCell :=
  fun q w s => ⟨rfl, cell_setCell_same s q w, fun _ hq => cell_setCell_other s hq w, _, rfl⟩

/-- Settles O11: `idle` is one tick of the port. -/
theorem idleCountsACycle : Obligations.IdleCountsACycle := fun _ => rfl

theorem fetch_pc_toNat (s : State) : (fetch s).2.pc.toNat = (s.pc.toNat + 1) % 65536 :=
  BitVec.toNat_add s.pc 1

/-- Settles O38: every instruction runs the handler of its control, and every handler leaves PC. -/
theorem knownInstructionsAlwaysComplete : Obligations.KnownInstructionsAlwaysComplete :=
  fun i s => ⟨_, exec_eq_execute i s, execute_pc _ _ s⟩

/-- Settles O10: the fetch by its definition, the instructions because each completes with the PC it was
given. -/
theorem fetchReadsAndAdvancesPC : Obligations.FetchReadsAndAdvancesPC := by
  refine ⟨fun s => ⟨rfl, rfl, fetch_pc_toNat s⟩, fun i s t h => ?_⟩
  obtain ⟨u, hu, hpc⟩ := knownInstructionsAlwaysComplete i s
  cases h.symm.trans hu
  exact hpc

end Sys2Proof.Machine

/-! ### Address sums in numbers (R38, R39) -/

namespace Sys2Proof.Machine

open Sys2Proof.Spec

theorem byte_add_eq_ofNat (w w' : Byte) : w + w' = BitVec.ofNat 8 ((w.toNat + w'.toNat) % 256) :=
  BitVec.eq_of_toNat_eq (by simp)

theorem zeroPage_toNat (nn : Byte) : (zeroPage nn).toNat = nn.toNat :=
  BitVec.toNat_setWidth_of_le (by decide)

theorem zeroPage_eq_ofNat (nn : Byte) : zeroPage nn = BitVec.ofNat 16 nn.toNat :=
  (BitVec.ofNat_toNat 16 nn).symm

theorem zeroPageIndexed_toNat (nn w : Byte) :
    (zeroPageIndexed nn w).toNat = (nn.toNat + w.toNat) % 256 := by
  rw [zeroPageIndexed, zeroPage_toNat, BitVec.toNat_add]

/-- The cell after 0xFF is 0x00, so a pointer's second byte stays in the zero page. -/
theorem zeroPage_succ_eq_ofNat (q : Byte) : zeroPage (q + 1) = BitVec.ofNat 16 ((q.toNat + 1) % 256) := by
  rw [zeroPage_eq_ofNat, BitVec.toNat_add]
  rfl

theorem indexed_toNat (base : Addr) (w : Byte) :
    (indexed base w).toNat = (base.toNat + w.toNat) % 65536 := by
  rw [indexed, BitVec.toNat_add, BitVec.toNat_setWidth_of_le (by decide)]

/-- Settles O13: the fetch's sum, then the index sum of three modes. -/
theorem addressSumsWrapModulo65536 : Obligations.AddressSumsWrapModulo65536 :=
  fun s w nn => ⟨fetch_pc_toNat s, indexed_toNat w s.x, indexed_toNat w s.y,
    indexed_toNat (readPointer nn s).1 s.y⟩

/-- Settles O14: the index sums, and the pointer's two reads with both addresses in numbers. -/
theorem zeroPageSumsWrapModulo256 : Obligations.ZeroPageSumsWrapModulo256 := by
  intro s nn q
  refine ⟨zeroPageIndexed_toNat nn s.x, zeroPageIndexed_toNat nn s.y, ?_, rfl,
    pointerOps q s, readPointer_snd q s, ?_⟩
  · rw [← byte_add_eq_ofNat]
    rfl
  · rw [pointerOps, zeroPage_eq_ofNat q, zeroPage_succ_eq_ofNat]

end Sys2Proof.Machine

/-! ### The one write of a step (R46, R158, R200) -/

namespace Sys2Proof.Machine

open Sys2Proof.Spec

/-- No operation of the list is a write. -/
def WritesNothing (ops : List BusOp) : Prop := ∀ q w, BusOp.write q w ∉ ops

theorem writesNothing_append {ops more : List BusOp} :
    WritesNothing (ops ++ more) ↔ WritesNothing ops ∧ WritesNothing more := by
  simp only [WritesNothing, List.mem_append, not_or, forall_and]

theorem writesNothing_cons {op : BusOp} {ops : List BusOp} :
    WritesNothing (op :: ops) ↔ (∀ q w, .write q w ≠ op) ∧ WritesNothing ops := by
  simp only [WritesNothing, List.mem_cons, not_or, forall_and, ne_eq]

@[simp] theorem writesNothing_nil : WritesNothing [] := fun _ _ => List.not_mem_nil

@[simp] theorem writesNothing_read_cons {q : Addr} {w : Byte} {ops : List BusOp} :
    WritesNothing (.read q w :: ops) ↔ WritesNothing ops := by
  simp [writesNothing_cons]

@[simp] theorem writesNothing_idle_cons {ops : List BusOp} :
    WritesNothing (.idle :: ops) ↔ WritesNothing ops := by
  simp [writesNothing_cons]

@[simp] theorem writesNothing_idleOps (k : Bool) : WritesNothing (idleOps k) := by
  cases k <;> simp [idleOps]

theorem writesNothing_fetchOps (k : Nat) (q : Addr) (s : State) : WritesNothing (fetchOps k q s) := by
  induction k generalizing q with
  | zero => exact writesNothing_nil
  | succ k ih => exact writesNothing_read_cons.2 (ih (q + 1))

/-- The resolver never writes (R74). -/
theorem writesNothing_resolverOps (m : MemOperand) (s : State) : WritesNothing (resolverOps m s) := by
  cases m <;> simp [resolverOps, pointerOps]

/-- A write found on a port that ends with its only write is that one. -/
theorem eq_last_of_getElem?_write {ops : List BusOp} (hops : WritesNothing ops) {q q' : Addr} {w w' : Byte}
    {k : Nat} (h : (ops ++ [.write q w])[k]? = some (.write q' w')) : k = ops.length ∧ q = q' ∧ w = w' := by
  obtain hlt | heq | hgt := Nat.lt_trichotomy k ops.length
  · rw [List.getElem?_append_left hlt] at h
    exact absurd (List.mem_of_getElem? h) (hops q' w')
  · rw [heq, List.getElem?_concat_length] at h
    cases h
    exact ⟨heq, rfl, rfl⟩
  · rw [List.getElem?_eq_none (by simpa using hgt)] at h
    cases h

/-- A handler writes nothing on the port, or one byte, last, which the cell then holds. -/
theorem execOps_writes (p : Params) (c : Control) (s : State) :
    WritesNothing (execOps p c s) ∨ ∃ ops q w, execOps p c s = ops ++ [.write q w] ∧ WritesNothing ops ∧
      (execute p c s).cell q = w := by
  rw [execute_eq_effect]
  cases c with
  | loadImm r w | addImm w | subImm w => exact .inl (writesNothing_idleOps _)
  | loadMem r m | addMem m | subMem m =>
    exact .inl (writesNothing_append.2 ⟨writesNothing_resolverOps m s, by simp [readOp]⟩)
  | stepReg r δ => exact .inl writesNothing_nil
  | shiftAcc op => exact .inl (by simp [execOps])
  | store r m => exact .inr ⟨_, _, _, rfl, writesNothing_resolverOps m s, cell_setCell_same ..⟩
  | stepMem δ m =>
    refine .inr ⟨_, _, _, rfl, writesNothing_append.2 ⟨writesNothing_resolverOps m s, by simp [readOp]⟩, ?_⟩
    rw [applyDelta_eq_stepped]
    exact cell_setCell_same ..
  | shiftMem op m =>
    refine .inr ⟨resolverOps m s ++ [readOp m s, .idle], _, _, (List.append_assoc _ [_, _] [_]).symm,
      writesNothing_append.2 ⟨writesNothing_resolverOps m s, by simp [readOp]⟩, ?_⟩
    rw [applyShift_eq_shifted]
    exact cell_setCell_same ..

/-- The same of a step: its fetches only read. -/
theorem afterStep_port_writes (p : Params) (md : Mode) (c : Control) (s : State) :
    WritesNothing (afterStep p md c s).port ∨ ∃ ops q w, (afterStep p md c s).port = ops ++ [.write q w] ∧
      WritesNothing ops ∧ (afterStep p md c s).cell q = w := by
  have hfetch := writesNothing_fetchOps (1 + md.operandBytes) s.pc s
  rw [afterStep_port, ← execOps_afterFetches p c (1 + md.operandBytes) s]
  obtain hnone | ⟨ops, q, w, heq, hops, hcell⟩ := execOps_writes p c (afterFetches (1 + md.operandBytes) s)
  · exact .inl (writesNothing_append.2 ⟨hfetch, hnone⟩)
  · rw [heq, ← List.append_assoc]
    exact .inr ⟨_, q, w, rfl, writesNothing_append.2 ⟨hfetch, hops⟩, hcell⟩

/-- A completed step is that of the pair at PC. -/
theorem pairAtPC_of_stepWith_next {p : Params} {s t : State} (h : stepWith p s = .next t) :
    ∃ mn md c, PairAtPC p s mn md c ∧ t = afterStep p md c s := by
  obtain hunknown | ⟨mn, md, c, hpair⟩ := unknown_or_pairAtPC p s
  · cases h.symm.trans (stepWith_of_unknown hunknown)
  · cases h.symm.trans (stepWith_of_pair hpair)
    exact ⟨mn, md, c, hpair, rfl⟩

theorem stepWith_write_last {p : Params} {s t : State} {k : Nat} {q : Addr} {w : Byte}
    (h : stepWith p s = .next t) (hk : t.port[k]? = some (.write q w)) :
    k + 1 = t.port.length ∧ t.cell q = w := by
  obtain ⟨mn, md, c, -, rfl⟩ := pairAtPC_of_stepWith_next h
  obtain hnone | ⟨ops, q', w', heq, hops, hcell⟩ := afterStep_port_writes p md c s
  · exact absurd (List.mem_of_getElem? hk) (hnone q w)
  · rw [heq] at hk
    obtain ⟨rfl, rfl, rfl⟩ := eq_last_of_getElem?_write hops hk
    exact ⟨by rw [heq, List.length_append]; rfl, hcell⟩

/-- Settles O47: a step writes last, and the fetch reads the cell it wrote. -/
theorem writeIsLastAndSeenByTheNextFetch : Obligations.WriteIsLastAndSeenByTheNextFetch := by
  intro s t k q w hstep hk
  obtain ⟨p, h⟩ : ∃ p, stepWith p s = .next t :=
    hstep.elim (fun h => ⟨Params.default, step_eq_stepWith_default s ▸ h⟩) id
  exact stepWith_write_last h hk

end Sys2Proof.Machine

/-! ### A store, then a load (R43, R100, R110) -/

namespace Sys2Proof.Machine

open Sys2Proof.Spec

@[simp] theorem reg_withNZ (w : Byte) (s : State) (r : Reg) : (withNZ w s).reg r = s.reg r := by
  cases r <;> rfl

theorem setReg_reg (s : State) (r : Reg) : s.setReg r (s.reg r) = s := by cases r <;> rfl

/-- A load whose cell already holds the register sets N and Z from it, and nothing else but cycles. -/
theorem loadMem_of_cell_eq_reg {r : Reg} {m : MemOperand} {t : State}
    (h : t.cell (effectiveAddress m t) = t.reg r) :
    loadMem r m t = withNZ (t.reg r) (afterOps (resolverOps m t ++ [readOp m t]) t) := by
  rw [loadMem_eq, h, setReg_reg]

theorem resolve_fst (m : MemOperand) (s : State) : (resolve m s).1 = effectiveAddress m s :=
  congrArg Prod.fst (resolve_eq m s)

theorem reg_store (r r' : Reg) (m : MemOperand) (s : State) : (store r m s).reg r' = s.reg r' := by
  rw [store_eq, reg_afterOps, reg_setCell]

theorem cell_store (r : Reg) (m : MemOperand) (s : State) :
    (store r m s).cell (effectiveAddress m s) = s.reg r := by
  rw [store_eq, cell_afterOps, cell_setCell_same]

/-- Settles O57: after the store the cell holds the register, which the load therefore leaves. -/
theorem storeThenLoadRoundTrip : Obligations.StoreThenLoadRoundTrip := by
  intro i j r m m' s t hi hj hstore haddr
  cases hstore.symm.trans (exec_store hi s)
  rw [resolve_fst, resolve_fst] at haddr
  have hcell : (store r m s).cell (effectiveAddress m' (store r m s)) = (store r m s).reg r := by
    rw [haddr, cell_store, reg_store]
  refine ⟨_, exec_loadMem hj _, ?_⟩
  rw [loadMem_of_cell_eq_reg hcell, reg_store]
  refine ⟨fun r' => ?_, describesNZ_withNZ _ _, ?_, ?_⟩
  · rw [reg_withNZ, reg_afterOps, reg_store]
  · rw [withNZ_c, afterOps_c, store_eq, afterOps_c, setCell_c]
  · rw [withNZ_v, afterOps_v, store_eq, afterOps_v, setCell_v]

end Sys2Proof.Machine

/-! # Proofs of the encoding statements (spec/30_encoding.md)

The table of R56 and the encoder are written apart. Row by row: what a row builds is encoded as the row's
byte followed by the operand bytes, so that reading and encoding are inverse to each other for one format.
With a row for every instruction this holds of the decoder (`decode_eq_instr_iff`): both round trips and
the words of the spec are read off from it; the matrix of R55 and the control lines follow row by row. -/

/-! ### One row of the table: format, encoding and operand (R50, R51, R53) -/

namespace Sys2Proof

/-- A format reads what is there when there are as many operand bytes as it asks for (R58). -/
theorem Format.read_append {ι : Type} {f : Format ι} {operands : List Byte}
    (h : operands.length = f.operandBytes) (rest : List Byte) : ∃ i, f.read (operands ++ rest) = .instr i rest := by
  match f, operands, h with
  | .f1 i, [], _ => exact ⟨i, rfl⟩
  | .f2 build, [nn], _ => exact ⟨build nn, rfl⟩
  | .f3 build, [ll, hh], _ => exact ⟨build (wordOfBytes ll hh), rfl⟩

/-- What the format builds is encoded as the opcode byte and then the operand, low byte first (R37 a, R51). -/
def Format.EncodedFrom (b : Byte) : Format Instr → Prop
  | .f1 i => encode i = [b]
  | .f2 build => ∀ nn, encode (build nn) = [b, nn]
  | .f3 build => ∀ hhll, encode (build hhll) = [b, lowByte hhll, highByte hhll]

/-- What the format builds has the number it was built from as its operand (R53). -/
def Format.KeepsOperand : Format Instr → Prop
  | .f1 i => i.operand = 0
  | .f2 build => ∀ nn, (build nn).operand = nn.toNat
  | .f3 build => ∀ hhll, (build hhll).operand = hhll.toNat

theorem encodedFrom_and_keepsOperand_of_opcodeTable :
    ∀ row ∈ opcodeTable, row.2.EncodedFrom row.1 ∧ row.2.KeepsOperand := by
  simp only [opcodeTable, opcodeRow0, opcodeRow1, opcodeRow2, opcodeRow3, opcodeRow4, opcodeRow5, opcodeRow6,
    opcodeRow7, opcodeRow8, opcodeRow9, opcodeRowA, opcodeRowB, opcodeRowC, opcodeRowD, opcodeRowE, opcodeRowF,
    List.forall_mem_append, List.forall_mem_cons, List.not_mem_nil, false_implies, implies_true, and_true,
    Format.EncodedFrom, Format.KeepsOperand]
  and_intros <;> intros <;> rfl

theorem encodedFrom_of_instrFormat {b : Byte} {f : Format Instr} (h : instrFormat b = some f) : f.EncodedFrom b :=
  (encodedFrom_and_keepsOperand_of_opcodeTable _ (instrFormat_mem h)).1

/-- Reading by a row's format and encoding are inverse to each other. -/
theorem Format.EncodedFrom.read_eq_instr_iff {b : Byte} {f : Format Instr} (hf : f.EncodedFrom b)
    {bytes rest : List Byte} {i : Instr} :
    f.read bytes = .instr i rest ↔ f.Builds i ∧ b :: bytes = encode i ++ rest := by
  refine ⟨fun h => ⟨Format.builds_of_read h, ?_⟩, fun ⟨hi, hbytes⟩ => ?_⟩
  · match f, bytes, h with
    | .f1 j, _, h => cases h; rw [hf]; rfl
    | .f2 build, nn :: _, h => cases h; rw [hf]; rfl
    | .f3 build, ll :: hh :: _, h =>
      cases h
      rw [hf, lowByte_wordOfBytes, highByte_wordOfBytes]
      rfl
  · cases f with
    | f1 j =>
      cases hi
      rw [hf] at hbytes
      cases hbytes
      rfl
    | f2 build =>
      obtain ⟨nn, rfl⟩ := hi
      rw [hf] at hbytes
      cases hbytes
      rfl
    | f3 build =>
      obtain ⟨hhll, rfl⟩ := hi
      rw [hf] at hbytes
      cases hbytes
      exact congrArg (fun w => Decoded.instr (build w) rest) (wordOfBytes_split hhll)

/-- Every number that the operand bytes can hold is the operand of something built (R58). -/
theorem Format.KeepsOperand.exists_builds {f : Format Instr} (hf : f.KeepsOperand) {k : Nat}
    (hk : k < 2 ^ (8 * f.operandBytes)) : ∃ i, f.Builds i ∧ i.operand = k := by
  cases f with
  | f1 i => exact ⟨i, rfl, hf.trans (Nat.lt_one_iff.1 hk).symm⟩
  | f2 build => exact ⟨_, ⟨BitVec.ofNat 8 k, rfl⟩, (hf _).trans (Nat.mod_eq_of_lt hk)⟩
  | f3 build => exact ⟨_, ⟨BitVec.ofNat 16 k, rfl⟩, (hf _).trans (Nat.mod_eq_of_lt hk)⟩

/-! ### Decoder and encoder (R50, R54, R55) -/

/-- Every instruction is built by the row of its opcode byte. -/
theorem instrFormat_opcode (i : Instr) : ∃ f, instrFormat i.opcode = some f ∧ f.Builds i := by
  cases i with
  | inx | iny | dex | dey | aslAcc | lsrAcc | rolAcc | rorAcc => exact ⟨_, rfl, rfl⟩
  | _ operand => exact ⟨_, rfl, operand, rfl⟩

theorem decode_cons_eq_instr_iff {b : Byte} {bytes rest : List Byte} {i : Instr} :
    decode (b :: bytes) = .instr i rest ↔ ∃ f, instrFormat b = some f ∧ f.read bytes = .instr i rest := by
  cases h : instrFormat b <;> simp [decode, decodeWith, h]

/-- The decoder answers an instruction exactly on its encoding, and leaves what follows it. -/
theorem decode_eq_instr_iff {bytes rest : List Byte} {i : Instr} :
    decode bytes = .instr i rest ↔ bytes = encode i ++ rest := by
  constructor
  · intro h
    cases bytes with
    | nil => cases h
    | cons b bytes =>
      obtain ⟨f, hf, hread⟩ := decode_cons_eq_instr_iff.1 h
      exact ((encodedFrom_of_instrFormat hf).read_eq_instr_iff.1 hread).2
  · rintro rfl
    obtain ⟨f, hf, hi⟩ := instrFormat_opcode i
    exact decode_cons_eq_instr_iff.2
      ⟨f, hf, (encodedFrom_of_instrFormat hf).read_eq_instr_iff.2 ⟨hi, rfl⟩⟩

/-- Settles O1: the row of the instruction's opcode byte reads back what the encoder wrote. -/
theorem decodeInvertsEncode : Obligations.DecodeInvertsEncode :=
  fun _ _ => decode_eq_instr_iff.2 rfl

/-- Settles O2: the other direction, since a row builds only instructions that are encoded from its byte. -/
theorem encodeInvertsDecode : Obligations.EncodeInvertsDecode :=
  fun _ _ _ => decode_eq_instr_iff.1

theorem operandBytes_length (i : Instr) : i.operandBytes.length = i.mode.operandBytes := by
  cases i <;> rfl

/-- Settles O4: a format reads any operand bytes of its number, and what it answers is encoded as the bytes read. -/
theorem everyOperandByteIsLegal : Obligations.EveryOperandByteIsLegal := by
  constructor
  · intro b f operands rest hf hlen
    obtain ⟨i, hread⟩ := Format.read_append hlen rest
    have hdecode : decode (b :: (operands ++ rest)) = .instr i rest := decode_cons_eq_instr_iff.2 ⟨f, hf, hread⟩
    have hencode : b :: operands = encode i := List.append_cancel_right (decode_eq_instr_iff.1 hdecode)
    obtain ⟨rfl, rfl⟩ := List.cons.inj hencode
    exact ⟨i, hdecode, rfl, rfl, by rw [Instr.length, ← operandBytes_length, hlen]⟩
  · intro mn md f operands rest hf hlen
    exact Format.read_append (hlen.trans (format_operandBytes hf).symm) rest

/-- Settles O5: each word is the encoding of its instruction. -/
theorem specWordsDecodeAsWritten : Obligations.SpecWordsDecodeAsWritten := by
  unfold Obligations.SpecWordsDecodeAsWritten
  and_intros <;> exact decode_eq_instr_iff.2 rfl

/-! ### The matrix of R55 and the 79 constructors -/

theorem opcodeMap_opcode (i : Instr) : opcodeMap i.opcode = some (i.mnemonic, i.mode) := by
  obtain ⟨f, hf, hi⟩ := instrFormat_opcode i
  exact Option.map_eq_some_iff.2 ⟨f, hf, pair_of_opcodeTable _ (instrFormat_mem hf) i hi⟩

theorem mode_mem_modes (i : Instr) : i.mode ∈ i.mnemonic.modes :=
  Machine.withinMatrix_default _ _ _ (opcodeMap_opcode i)

/-- Every filled cell of the matrix has a row in the table. -/
theorem exists_row_of_mem_modes {mn : Mnemonic} {md : Mode} (h : md ∈ mn.modes) :
    ∃ row ∈ opcodeTable, row.2.pair = (mn, md) := by
  revert md
  cases mn <;> decide

/-- A filled cell with an operand that fits is an instruction (R58). -/
theorem exists_form_eq {mn : Mnemonic} {md : Mode} {k : Nat} (hmd : md ∈ mn.modes)
    (hk : k < 2 ^ (8 * md.operandBytes)) : ∃ i : Instr, i.form = ⟨mn, md, k⟩ := by
  have hwidth : ∀ row ∈ opcodeTable, row.2.operandBytes = row.2.pair.2.operandBytes := by decide
  obtain ⟨row, hrow, hpair⟩ := exists_row_of_mem_modes hmd
  have hk' : k < 2 ^ (8 * row.2.operandBytes) := by rwa [hwidth row hrow, hpair]
  obtain ⟨i, hi, rfl⟩ := (encodedFrom_and_keepsOperand_of_opcodeTable row hrow).2.exists_builds hk'
  obtain ⟨rfl, rfl⟩ := Prod.mk.inj (hpair.symm.trans (pair_of_opcodeTable row hrow i hi))
  exact ⟨i, rfl⟩

theorem Form.wf_iff {f : Form} :
    f.wf = true ↔ f.mode ∈ f.mnemonic.modes ∧ f.operand < 2 ^ (8 * f.mode.operandBytes) := by
  simp [Form.wf, Form.pairExists, Form.operandFits]

/-- Settles O6: a filled cell has a row, whose format builds every operand that fits. -/
theorem wellFormedFormsAreTheInstructions : Obligations.WellFormedFormsAreTheInstructions := by
  intro f
  rw [Form.wf_iff]
  constructor
  · rintro ⟨hmd, hk⟩
    exact exists_form_eq hmd hk
  · rintro ⟨i, rfl⟩
    exact ⟨mode_mem_modes i, operand_lt i⟩

/-! ### The bytes of the table (R55 to R57) -/

theorem opcodeTable_bytes_nodup : (opcodeTable.map Prod.fst).Nodup := by decide

theorem opcodeMap_isSome_iff {b : Byte} : (opcodeMap b).isSome = true ↔ b ∈ opcodeTable.map Prod.fst := by
  simp [opcodeMap, instrFormat]

/-- The known bytes, counted through all 256, are those of the table. -/
theorem known_perm_opcodeTable :
    ((List.range 256).filter fun k => (opcodeMap (BitVec.ofNat 8 k)).isSome).Perm
      ((opcodeTable.map Prod.fst).map BitVec.toNat) := by
  have hnodup := opcodeTable_bytes_nodup.map BitVec.toNat_injective
  refine (List.perm_ext_iff_of_nodup (List.nodup_range.filter _) hnodup).2 fun k => ?_
  simp only [List.mem_filter, List.mem_range, opcodeMap_isSome_iff, List.mem_map (f := BitVec.toNat)]
  constructor
  · rintro ⟨hk, hb⟩
    exact ⟨_, hb, Nat.mod_eq_of_lt hk⟩
  · rintro ⟨b, hb, rfl⟩
    exact ⟨b.isLt, by simpa using hb⟩

theorem known_length : ((List.range 256).filter fun k => (opcodeMap (BitVec.ofNat 8 k)).isSome).length = 79 :=
  known_perm_opcodeTable.length_eq

/-- Every element that is not known is unknown. -/
theorem length_filter_isNone {α β : Type} {map : α → Option β} {l : List α} {known : Nat}
    (h : (l.filter fun a => (map a).isSome).length = known) :
    (l.filter fun a => (map a).isNone).length = l.length - known := by
  have hsplit := l.length_eq_length_filter_add fun a => (map a).isSome
  simp only [Option.not_isSome] at hsplit
  omega

/-- Settles O3: the bytes outside the table's 79 are the rest of the 256. -/
theorem opcodeTableHasSeventyNineDistinctBytes : Obligations.OpcodeTableHasSeventyNineDistinctBytes := by
  refine ⟨rfl, List.pairwise_map.1 opcodeTable_bytes_nodup, ?_, by decide⟩
  rw [length_filter_isNone known_length, List.length_range]

/-! ### The control lines (R54) -/

theorem format_isSome_of_mem_modes {mn : Mnemonic} {md : Mode} (h : md ∈ mn.modes) :
    (mn.format md).isSome = true := by
  obtain ⟨row, hrow, hpair⟩ := exists_row_of_mem_modes h
  have hformat := format_of_opcodeTable row hrow
  rw [hpair] at hformat
  exact Option.isSome_of_eq_some hformat

/-- Settles O7: the format that R54 derives from the pair reads what the instruction's row reads, as its control. -/
theorem controlFollowsMnemonicModeAndOperand : Obligations.ControlFollowsMnemonicModeAndOperand := by
  refine ⟨fun i => ?_, fun mn md => format_isSome_of_mem_modes⟩
  obtain ⟨f, hf, hi⟩ := instrFormat_opcode i
  have hrow := instrFormat_mem hf
  have hread : f.read i.operandBytes = .instr i [] :=
    (encodedFrom_of_instrFormat hf).read_eq_instr_iff.2 ⟨hi, (List.append_nil _).symm⟩
  have hformat := format_of_opcodeTable _ hrow
  rw [pair_of_opcodeTable _ hrow i hi] at hformat
  exact ⟨f.map Instr.control, hformat, Format.read_map _ hread⟩

end Sys2Proof

/-! # Proofs of the step, resolver and flag statements (spec/40_step_resolver_flags.md)

The addresses in numbers, the page crossing in numbers, and which value each family's N and Z describe. The
obligations follow from these and from the resolver, the handlers and the step as the files above have them. -/

/-! ### The effective address (R74, R76 to R81, R158) -/

namespace Sys2Proof.Machine

open Sys2Proof.Spec

/-- Settles O15: the resolver, mode by mode, as the table has it. -/
theorem resolverFollowsTheBusTable : Obligations.ResolverFollowsTheBusTable := resolve_eq

theorem wordOfBytes_toNat (lo hi : Byte) : (wordOfBytes lo hi).toNat = lo.toNat + 256 * hi.toNat := by
  rw [wordOfBytes, BitVec.toNat_append, ← Nat.shiftLeft_add_eq_or_of_lt lo.isLt, Nat.shiftLeft_eq]
  omega

/-- The word at a pointer (R37, R39), whichever number names the pointer modulo 256. -/
theorem pointerWord_toNat {q : Byte} {k : Nat} (hq : q.toNat = k % 256) (s : State) :
    (pointerWord q s).toNat =
      (s.cell (BitVec.ofNat 16 (k % 256))).toNat + 256 * (s.cell (BitVec.ofNat 16 ((k + 1) % 256))).toNat := by
  rw [pointerWord, wordOfBytes_toNat, zeroPage_eq_ofNat q, zeroPage_succ_eq_ofNat, hq, Nat.mod_add_mod]

/-- Settles O12: the index sums, and the word at the pointer of IZX and IZY. -/
theorem modesResolveToTheirAddress : Obligations.ModesResolveToTheirAddress := by
  intro s nn w
  have hnn : nn.toNat % 256 = nn.toNat := Nat.mod_eq_of_lt nn.isLt
  refine ⟨zeroPage_toNat nn, zeroPageIndexed_toNat nn s.x, zeroPageIndexed_toNat nn s.y, rfl,
    indexed_toNat w s.x, indexed_toNat w s.y, ?_, ?_⟩
  · exact pointerWord_toNat (BitVec.toNat_add nn s.x) s
  · rw [resolve_fst, effectiveAddress, indexed_toNat, pointerWord_toNat hnn.symm, hnn]

end Sys2Proof.Machine

/-! ### The cycles of the resolver and the page crossing (R77, R79 to R82) -/

namespace Sys2Proof.Machine

open Sys2Proof.Spec

theorem highByte_toNat (w : Addr) : (highByte w).toNat = w.toNat / 256 := by
  have hw := w.isLt
  rw [highByte, BitVec.extractLsb'_toNat, Nat.shiftRight_eq_div_pow]
  omega

/-- The index carries out of the low byte exactly when the high byte changes, 0xFF to 0x00 included (D22). -/
theorem pageCross_indexed (base : Addr) (w : Byte) :
    pageCross base (indexed base w) = decide (255 < base.toNat % 256 + w.toNat) := by
  have hbase := base.isLt
  have hw := w.isLt
  rw [Bool.eq_iff_iff, decide_eq_true_iff, pageCross, bne_iff_ne, ne_eq, BitVec.toNat_eq, highByte_toNat,
    highByte_toNat, indexed_toNat]
  omega

theorem resolve_cyc (m : MemOperand) (s : State) :
    (resolve m s).2.cyc = s.cyc + BitVec.ofNat 8 (resolverOps m s).length := by
  rw [resolve_eq, afterOps_cyc]

/-- The crossing cycle of an indexed address, where one is due. -/
theorem idleOps_pageCross_length (base : Addr) (w : Byte) :
    BitVec.ofNat 8 (idleOps (pageCross base (indexed base w))).length =
      if 255 < base.toNat % 256 + w.toNat then 1 else 0 := by
  rw [pageCross_indexed]
  split
  case isTrue h => rw [decide_eq_true h]; rfl
  case isFalse h => rw [decide_eq_false h]; rfl

/-- Settles O16: as many cycles as the table has operations for the mode. -/
theorem pageCrossingAddsOneCycle : Obligations.PageCrossingAddsOneCycle := by
  refine ⟨pageCross_indexed, fun s nn w => ⟨rfl, rfl, rfl, rfl, resolve_cyc (.izx nn) s, ?_, ?_, ?_⟩⟩
  · rw [resolve_cyc, resolverOps, crosses, idleOps_pageCross_length]
  · rw [resolve_cyc, resolverOps, crosses, idleOps_pageCross_length]
  · rw [resolve_cyc, resolverOps, crosses, List.length_append, BitVec.ofNat_add, idleOps_pageCross_length,
      ← BitVec.add_assoc]
    rfl

end Sys2Proof.Machine

/-! ### The value that N and Z describe (R84) -/

namespace Sys2Proof.Machine

open Sys2Proof.Spec

theorem describesNZ_withNZ_of_eq {w w' : Byte} (h : w' = w) (s : State) :
    DescribesNZ (withNZ w s) w' ∧ ¬((withNZ w s).n = true ∧ (withNZ w s).z = true) := by
  subst h
  exact ⟨describesNZ_withNZ w' s, not_n_and_z_of_describesNZ (describesNZ_withNZ w' s)⟩

theorem reg_withNZ_setReg (w : Byte) (ops : List BusOp) (s : State) (r : Reg) :
    (withNZ w (afterOps ops (s.setReg r w))).reg r = w := by
  rw [reg_withNZ, reg_afterOps, reg_setReg_same]

/-- The cell at the resolved address, after it was written there. -/
theorem cell_resolve_of_mem_eq {m : MemOperand} {s t : State} {w : Byte}
    (h : t.mem = (s.setCell (effectiveAddress m s) w).mem) : t.cell (resolve m s).1 = w := by
  rw [cell_of_mem_eq h, resolve_fst, cell_setCell_same]

/-- Settles O30: each handler but the stores' sets N and Z from the value it leaves, family by family. -/
theorem nAndZDescribeTheResult : Obligations.NAndZDescribeTheResult := by
  refine ⟨updateNZ_eq_withNZ, fun i s t h => ?_⟩
  rw [exec_eq_execute] at h
  cases h
  rw [execute_eq_effect]
  cases i.control with
  | loadImm r w | loadMem r m => exact describesNZ_withNZ_of_eq (reg_withNZ_setReg _ _ s r) _
  | stepReg r δ => exact describesNZ_withNZ_of_eq ((reg_withNZ _ _ r).trans (reg_setReg_same s r _)) _
  | addImm w | addMem m | subImm w | subMem m | shiftAcc op => exact describesNZ_withNZ_of_eq rfl _
  | stepMem δ m | shiftMem op m => exact describesNZ_withNZ_of_eq (cell_resolve_of_mem_eq rfl) _
  | store r m => exact ⟨rfl, rfl⟩

end Sys2Proof.Machine

/-! ### The step (R70, R71) -/

namespace Sys2Proof.Machine

open Sys2Proof.Spec

/-- Settles O39: the pair at `PC` under the default map, whose handler `exec` runs. -/
theorem stepRunsTheDecodedInstruction : Obligations.StepRunsTheDecodedInstruction :=
  fun s i h => ⟨_, exec_eq_execute i (fetched i s),
    (step_eq_stepWith_default s).trans (stepWith_of_pair (pairAtPC_of_instrAtPC h))⟩

end Sys2Proof.Machine

/-! # Proofs of the load statements (spec/41_load.md)

A load sets one register and N and Z from one byte and performs cycles (`exec_load_eq`). The results name the
byte and the cycles of each form; the frame is what every such state leaves. -/

namespace Sys2Proof.Machine

open Sys2Proof.Spec

/-! ### The next state of a load (R100) -/

/-- Settles O17: the handler has no cycle of its own under the default `IMM_HANDLER_CYCLE` (D9). -/
theorem loadImmediateResult : Obligations.LoadImmediateResult := by
  intro i r w s h
  have hops : idleOps Config.immHandlerCycle = [] := rfl
  rw [exec_loadImm h, loadImm_eq, hops, afterOps_nil]

/-- Settles O18: the handler's whole effect, with the table's address for the resolver's. -/
theorem loadMemoryResult : Obligations.LoadMemoryResult := by
  intro i r m s h
  rw [exec_loadMem h, loadMem_eq, resolve_fst, readOp]

/-! ### What a load leaves (R12, R100) -/

/-- All that a load of either form can do. -/
theorem exec_load_eq {i : Instr} {r : Reg}
    (h : (∃ w, i.control = .loadImm r w) ∨ ∃ m, i.control = .loadMem r m) (s : State) :
    ∃ w ops, exec i s = .next (withNZ w (afterOps ops (s.setReg r w))) := by
  obtain ⟨w, hw⟩ | ⟨m, hm⟩ := h
  · exact ⟨w, _, (exec_loadImm hw s).trans (congrArg _ (loadImm_eq _ r w s))⟩
  · exact ⟨_, _, (exec_loadMem hm s).trans (congrArg _ (loadMem_eq r m s))⟩

/-- Settles O33: a load writes its register, N, Z, `Cyc` and the port. -/
theorem loadFrame : Obligations.LoadFrame := by
  intro i r s t hload hnext
  obtain ⟨w, ops, hexec⟩ := exec_load_eq hload s
  cases hexec.symm.trans hnext
  refine ⟨fun r' hr' => ?_, setReg_sp s r w, setReg_v s r w, setReg_c s r w, setReg_b s r w, setReg_d s r w,
    setReg_i s r w, setReg_dispatcher s r w, fun q => cell_setReg s r w q⟩
  rw [reg_withNZ, reg_afterOps, reg_setReg_other s hr']

end Sys2Proof.Machine

/-! # Proofs of the store statements (spec/42_store.md)

A store writes one cell and performs cycles (`store_eq`); the result names both at the resolved address, and
the frame is what every such state leaves. -/

namespace Sys2Proof.Machine

open Sys2Proof.Spec

/-- Settles O19: the handler's whole effect, with the table's address for the resolver's. -/
theorem storeResult : Obligations.StoreResult := by
  intro i r m s h
  rw [exec_store h, store_eq, resolve_fst]

/-- A store writes the cell at the resolved address and no other (R110). -/
theorem cell_store_other (r : Reg) {m : MemOperand} {s : State} {q : Addr} (hq : q ≠ (resolve m s).1) :
    (store r m s).cell q = s.cell q := by
  rw [resolve_fst] at hq
  rw [store_eq, cell_afterOps, cell_setCell_other s hq]

/-- Settles O34: registers and cells by what a store leaves of them; of the other fields neither the write
nor the cycles change any. -/
theorem storeFrame : Obligations.StoreFrame := by
  intro i r m s t hstore hnext
  cases (exec_store hstore s).symm.trans hnext
  refine ⟨fun r' => reg_store r r' m s, ?_, ?_, ?_, ?_, ?_, ?_, ?_, ?_, ?_, fun q hq => cell_store_other r hq⟩
  all_goals simp [store_eq]

end Sys2Proof.Machine

/-! # Proofs of the add and subtract statements (spec/43_add_subtract.md)

First the ALU's V and C in the readings of R121. `ADC` and `SBC` are one addition after some cycles
(`exec_addSub_eq`): the results name operand and cycles of each form, the frame is what every such state leaves.
Then what the ALU gives for a complement (R124), and the host's transactions on D. -/

/-! ### V and C of the addition, in every reading (R121) -/

namespace Sys2Proof.Machine

/-- The sign of the result differs from both signs, where these agree. -/
theorem addOverflow_eq_xor (a m : Byte) (c : Bool) :
    addOverflow a m c = ((a ^^^ addResult a m c) &&& (m ^^^ addResult a m c)).getLsbD 7 := by
  rw [addOverflow, getLsbD_seven, BitVec.msb_and, BitVec.msb_xor, BitVec.msb_xor]
  -- a truth table of the three signs
  cases a.msb <;> cases m.msb <;> cases (addResult a m c).msb <;> rfl

/-- V is the sum of the two's-complement numbers leaving the range of a byte. -/
theorem addOverflow_eq_signed (a m : Byte) (c : Bool) :
    addOverflow a m c =
      decide (a.toInt + m.toInt + c.toNat < -128 ∨ 127 < a.toInt + m.toInt + c.toNat) := by
  have ha := a.isLt
  have hm := m.isLt
  have hc := c.toNat_le
  have hr : (addResult a m c).toNat = (a.toNat + m.toNat + c.toNat) % 256 := rfl
  rw [Bool.eq_iff_iff, decide_eq_true_iff]
  simp only [addOverflow, Bool.and_eq_true, beq_iff_eq, bne_iff_ne, ne_eq, msb_eq_decide_le,
    decide_eq_decide, hr, BitVec.toInt_eq_toNat_cond]
  omega

/-- Settles O27: the formula as a whole, then V and C each in its readings. -/
theorem addWithCarryFollowsItsFormula : Obligations.AddWithCarryFollowsItsFormula :=
  fun m s => ⟨addWithCarry_eq_withSum m s, addOverflow_eq_xor s.a m s.c, addOverflow_eq_signed s.a m s.c, rfl⟩

end Sys2Proof.Machine

/-! ### The next state of an addition and of a subtraction (R120, R123, R124) -/

namespace Sys2Proof.Machine

/-- Under the default `IMM_HANDLER_CYCLE` an immediate form has no cycle of its own (D9). -/
theorem afterOps_immHandlerCycle (s : State) : afterOps (idleOps Config.immHandlerCycle) s = s :=
  afterOps_nil s

end Sys2Proof.Machine

namespace Sys2Proof

open Sys2Proof.Machine

/-- Settles O20: the handler's whole effect, with the table's address for the resolver's. The name
`Machine.addResult` is the ALU's. -/
theorem addResult : Obligations.AddResult := by
  refine fun i s => ⟨fun w h => ?_, fun m h => ?_⟩
  · rw [exec_addImm h, addImm_eq, afterOps_immHandlerCycle]
  · rw [exec_addMem h, addMem_eq, resolve_fst, readOp]

end Sys2Proof

namespace Sys2Proof.Machine

open Sys2Proof.Spec

/-- Settles O21: as `ADC`, with 255 minus the operand. -/
theorem subtractResult : Obligations.SubtractResult := by
  refine fun i s => ⟨fun w h => ?_, fun m h => ?_⟩
  · rw [exec_subImm h, subImm_eq, afterOps_immHandlerCycle]
  · rw [exec_subMem h, subMem_eq, resolve_fst, readOp]

/-! ### What both leave (R12, R120) -/

/-- All that `ADC` or `SBC` of any form can do. -/
theorem exec_addSub_eq {i : Instr}
    (h : (∃ w, i.control = .addImm w) ∨ (∃ m, i.control = .addMem m) ∨ (∃ w, i.control = .subImm w) ∨
      ∃ m, i.control = .subMem m) (s : State) :
    ∃ w ops, exec i s = .next (withSum w (afterOps ops s)) := by
  obtain ⟨w, hw⟩ | ⟨m, hm⟩ | ⟨w, hw⟩ | ⟨m, hm⟩ := h
  · exact ⟨_, _, (exec_addImm hw s).trans (congrArg _ (addImm_eq _ w s))⟩
  · exact ⟨_, _, (exec_addMem hm s).trans (congrArg _ (addMem_eq m s))⟩
  · exact ⟨_, _, (exec_subImm hw s).trans (congrArg _ (subImm_eq _ w s))⟩
  · exact ⟨_, _, (exec_subMem hm s).trans (congrArg _ (subMem_eq m s))⟩

/-- Settles O35: a sum writes A, N, V, Z and C, the cycles before it `Cyc` and the port. -/
theorem addSubtractFrame : Obligations.AddSubtractFrame := by
  intro i s t haddSub hnext
  obtain ⟨w, ops, hexec⟩ := exec_addSub_eq haddSub s
  cases hexec.symm.trans hnext
  exact ⟨rfl, rfl, rfl, rfl, rfl, rfl, rfl, fun _ => rfl⟩

end Sys2Proof.Machine

/-! ### `SBC` is `ADC` of the complement (R124) -/

namespace Sys2Proof.Machine

theorem toInt_complement (w : Byte) : (~~~w).toInt = -1 - w.toInt := by
  have hw := w.isLt
  simp only [BitVec.toInt_eq_toNat_cond, BitVec.toNat_not]
  omega

/-- The sum with the complement is the difference less the borrow. -/
theorem addResult_complement_toNat (a w : Byte) (c : Bool) :
    (addResult a (~~~w) c).toNat = (a.toNat + 256 - w.toNat - (1 - c.toNat)) % 256 := by
  have hw := w.isLt
  have hc := c.toNat_le
  have hsum : addSum a (~~~w) c = a.toNat + 256 - w.toNat - (1 - c.toNat) := by
    rw [addSum, BitVec.toNat_not]
    omega
  rw [addResult, hsum, BitVec.toNat_ofNat]

/-- No borrow occurred exactly when the sum with the complement carries. -/
theorem addCarry_complement (a w : Byte) (c : Bool) :
    addCarry a (~~~w) c = decide (w.toNat + (1 - c.toNat) ≤ a.toNat) := by
  have hw := w.isLt
  have hc := c.toNat_le
  rw [addCarry, decide_eq_decide, addSum, BitVec.toNat_not]
  omega

theorem addOverflow_complement (a w : Byte) (c : Bool) :
    addOverflow a (~~~w) c = decide (a.toInt - w.toInt - (1 - c.toNat : Int) < -128 ∨
      127 < a.toInt - w.toInt - (1 - c.toNat : Int)) := by
  have hdifference : a.toInt + (-1 - w.toInt) + c.toNat = a.toInt - w.toInt - (1 - c.toNat : Int) := by omega
  rw [addOverflow_eq_signed, toInt_complement, hdifference]

theorem subImm_eq_addImm (k : Bool) (w : Byte) (s : State) : subImm k w s = addImm k (~~~w) s := rfl

/-- The cycles before a sum reach neither A nor the flags. -/
theorem subMem_eq_addWithCarry (m : MemOperand) (s : State) :
    ∃ ops, subMem m s = addWithCarry (~~~(s.cell (resolve m s).1)) (afterOps ops s) :=
  ⟨_, by rw [subMem, operandMem_eq, resolve_fst]⟩

/-- Settles O29: the immediate forms by one handler, the memory forms by the sum both leave, the numbers by
what the ALU gives for a complement. -/
theorem subtractionIsComplementAddition : Obligations.SubtractionIsComplementAddition := by
  refine ⟨fun w s => congrArg Host.Outcome.next (subImm_eq_addImm _ w s), fun i m s h => ?_, fun w s t h => ?_⟩
  · obtain ⟨ops, hsub⟩ := subMem_eq_addWithCarry m s
    exact ⟨_, _, (exec_subMem h s).trans (congrArg _ hsub), rfl, rfl, rfl, rfl, rfl, rfl⟩
  · cases h
    exact ⟨addResult_complement_toNat s.a w s.c, addCarry_complement s.a w s.c,
      addOverflow_complement s.a w s.c⟩

end Sys2Proof.Machine

/-! ### Nothing reads or sets D (R12, R122) -/

namespace Sys2Proof.Machine

/-- The bytes of a load reach memory and nothing else. -/
theorem storeBytes_eq_with_mem (bytes : List Byte) (s : State) (q : Addr) :
    s.storeBytes q bytes = { s with mem := (s.storeBytes q bytes).mem } := by
  induction bytes generalizing s q with
  | nil => rfl
  | cons w rest ih => exact ih (s.setCell q w) (q + 1)

theorem storeBytes_d (bytes : List Byte) (s : State) (q : Addr) : (s.storeBytes q bytes).d = s.d := by
  rw [storeBytes_eq_with_mem]

theorem hostLoad_d (q : Addr) (bytes : List Byte) (k : Block) : (hostLoad q bytes k).2.core.d = k.core.d := by
  unfold hostLoad
  split
  · exact storeBytes_d bytes k.core q
  · rfl

theorem hostStep_d (p : Params) (k : Block) : (hostStep p k).2.core.d = k.core.d := by
  unfold hostStep
  split
  · obtain hunknown | ⟨mn, md, c, hpair⟩ := unknown_or_pairAtPC p k.core
    · rw [stepWith_of_unknown hunknown]
      rfl
    · rw [stepWith_of_pair hpair]
      exact execute_d p c _
  · rfl

/-- Settles O28: the sum does not mention D; every handler leaves D; of the transactions, one by one, reset
clears D and the others leave it. -/
theorem additionNeverReadsDecimalFlag : Obligations.AdditionNeverReadsDecimalFlag := by
  refine ⟨fun m s d => addWithCarry_eq_withSum m { s with d := d }, fun i s t h => ?_, fun p tr k h => ?_⟩
  · cases (exec_eq_execute i s).symm.trans h
    exact execute_d _ _ s
  · cases tr with
    | reset => exact absurd h Bool.false_ne_true
    | load q bytes => exact (hostLoad_d q bytes k).symm.trans h
    | step => exact (hostStep_d p k).symm.trans h
    | observe | readCell q => exact h

end Sys2Proof.Machine

/-! # Proofs of the increment and decrement statements (spec/44_inc_dec.md)

The results are the handlers' effects under the default parameters. A step and a shift have one shape, in memory
(`exec_readModifyWrite_eq`) and in a register (`exec_registerForm_eq`): one byte written back, N and Z from it, a
carry that only a shift changes, and cycles. The frames are what every such state leaves. -/

namespace Sys2Proof.Machine

open Sys2Proof.Spec

/-! ### The next state of a step (R130, R133) -/

/-- Settles O22: under the default `RMW_EXTRA_CYCLE` the handler has no cycle between read and write (D10). -/
theorem memoryStepResult : Obligations.MemoryStepResult := by
  intro i δ m s h
  have hops : idleOps Config.rmwExtraCycle = [] := rfl
  rw [exec_stepMem h, stepMem_eq, hops, List.append_assoc, List.singleton_append, readOp, resolve_fst]

/-- Settles O23: the handler's whole effect. -/
theorem registerStepResult : Obligations.RegisterStepResult := by
  intro i r δ s h
  rw [exec_stepReg h, stepReg_eq]

/-! ### What steps and shifts leave (R12, R130, R133, R140) -/

theorem reg_with_c (s : State) (c : Bool) (r : Reg) : ({ s with c := c } : State).reg r = s.reg r := by
  cases r <;> rfl

/-- All that a step or a shift of a cell can do. -/
theorem exec_readModifyWrite_eq {i : Instr} {m : MemOperand}
    (h : (∃ δ, i.control = .stepMem δ m) ∨ ∃ op, i.control = .shiftMem op m) (s : State) :
    ∃ w ops c, exec i s = .next (withNZ w { afterOps ops (s.setCell (resolve m s).1 w) with c := c }) ∧
      ((∃ δ, i.control = .stepMem δ m) → c = s.c) := by
  rw [resolve_fst]
  obtain ⟨δ, hstep⟩ | ⟨op, hshift⟩ := h
  · exact ⟨_, _, s.c, (exec_stepMem hstep s).trans (congrArg _ (stepMem_eq _ δ m s)), fun _ => rfl⟩
  · refine ⟨_, _, _, (exec_shiftMem hshift s).trans (congrArg _ (shiftMem_eq op m s)), fun ⟨δ, hstep⟩ => ?_⟩
    cases hshift.symm.trans hstep

/-- Settles O36: such an instruction writes one cell, N, Z, C, `Cyc` and the port. -/
theorem readModifyWriteFrame : Obligations.ReadModifyWriteFrame := by
  intro i m s t hform hnext
  obtain ⟨w, ops, c, hexec, hc⟩ := exec_readModifyWrite_eq hform s
  cases hexec.symm.trans hnext
  refine ⟨fun r => ?_, rfl, rfl, rfl, rfl, rfl, hc, rfl, fun q hq => cell_setCell_other s hq w⟩
  rw [reg_withNZ, reg_with_c, reg_afterOps, reg_setCell]

theorem afterOps_setReg_with_c (ops : List BusOp) (s : State) (r : Reg) (w : Byte) :
    { afterOps ops (s.setReg r w) with c := s.c } = afterOps ops (s.setReg r w) := by
  cases r <;> rfl

/-- All that a step of a register or a shift of the accumulator can do. -/
theorem exec_registerForm_eq {i : Instr} {r : Reg}
    (h : (∃ δ, i.control = .stepReg r δ) ∨ (r = .a ∧ ∃ op, i.control = .shiftAcc op)) (s : State) :
    ∃ w ops c, exec i s = .next (withNZ w { afterOps ops (s.setReg r w) with c := c }) ∧
      ((∃ δ, i.control = .stepReg r δ) → c = s.c) := by
  obtain ⟨δ, hstep⟩ | ⟨rfl, op, hshift⟩ := h
  · refine ⟨stepped δ (s.reg r), [], s.c, ?_, fun _ => rfl⟩
    rw [exec_stepReg hstep, stepReg_eq, afterOps_setReg_with_c, afterOps_nil]
  · refine ⟨_, _, _, (exec_shiftAcc hshift s).trans (congrArg _ (shiftAcc_eq op s)), fun ⟨δ, hstep⟩ => ?_⟩
    cases hshift.symm.trans hstep

/-- Settles O37: such an instruction writes its register, N, Z, C, `Cyc` and the port. -/
theorem registerFormFrame : Obligations.RegisterFormFrame := by
  intro i r s t hform hnext
  obtain ⟨w, ops, c, hexec, hc⟩ := exec_registerForm_eq hform s
  cases hexec.symm.trans hnext
  refine ⟨fun r' hr' => ?_, setReg_sp s r w, setReg_v s r w, setReg_b s r w, setReg_d s r w, setReg_i s r w, hc,
    setReg_dispatcher s r w, fun q => cell_setReg s r w q⟩
  rw [reg_withNZ, reg_with_c, reg_afterOps, reg_setReg_other s hr']

end Sys2Proof.Machine

/-! # Proofs of the shift and rotate statements (spec/45_shift_rotate.md)

The results are the handlers' effects. The rules' readings take those states apart, field by field. A rotate
turns the ring of the eight bits and the carry by one place: its inverse and its period of nine are those of the
place in the ring. -/

namespace Sys2Proof.Machine

open Sys2Proof.Spec

/-! ### The next state of a shift (R140 to R144) -/

/-- Settles O24: the handler's whole effect. -/
theorem accumulatorShiftResult : Obligations.AccumulatorShiftResult := by
  intro i op s h
  rw [exec_shiftAcc h, shiftAcc_eq]

/-- Settles O25: the handler's whole effect, with the table's address for the resolver's. -/
theorem memoryShiftResult : Obligations.MemoryShiftResult := by
  intro i op m s h
  rw [exec_shiftMem h, shiftMem_eq, resolve_fst, readOp]

/-! ### Result, carry, flags and cost (R141 to R144) -/

/-- Beyond addressing, each operation after the resolver's counts one cycle (R158). -/
theorem cyc_afterOps_resolverOps_append (m : MemOperand) (s : State) (ops : List BusOp) :
    (afterOps (resolverOps m s ++ ops) s).cyc = (resolve m s).2.cyc + BitVec.ofNat 8 ops.length := by
  rw [← afterOps_afterOps, afterOps_cyc, resolve_eq]

/-- Settles O26: the states of O24 and O25, field by field. -/
theorem shiftsFollowTheirRules : Obligations.ShiftsFollowTheirRules := by
  refine fun i op s => ⟨fun h => ?_, fun m h => ?_⟩
  · exact ⟨_, accumulatorShiftResult i op s h, rfl, rfl, describesNZ_withNZ _ _, rfl⟩
  · exact ⟨_, memoryShiftResult i op m s h, cell_setCell_same .., rfl,
      (describesNZ_withNZ_of_eq (cell_setCell_same ..) _).1, cyc_afterOps_resolverOps_append m s [_, _, _]⟩

/-! ### The ring of nine bits (R143, R144) -/

/-- A shift of the byte and the carry, as one value. -/
def shiftPair (op : ShiftOp) (p : Byte × Bool) : Byte × Bool := applyShift op p.1 p.2

/-- The ring that the rotates turn: bits 0 to 7 of the byte, then the carry, then bit 0 again. -/
def ringBit (p : Byte × Bool) (k : Fin 9) : Bool := (BitVec.cons p.2 p.1)[k]

theorem eq_of_ringBit_eq {p p' : Byte × Bool} (h : ∀ k, ringBit p k = ringBit p' k) : p = p' := by
  have hcons : BitVec.cons p.2 p.1 = BitVec.cons p'.2 p'.1 := BitVec.eq_of_getElem_eq fun k hk => h ⟨k, hk⟩
  refine Prod.ext ?_ ?_
  · simpa using congrArg (BitVec.setWidth 8) hcons
  · simpa using congrArg BitVec.msb hcons

/-- A place of the ring is the carry's, the top bit's or that of a bit with a bit above it. -/
theorem ringPlace_cases (k : Fin 9) : k = 8 ∨ k = 7 ∨ (k.val < 7 ∧ (k + 1).val = k.val + 1) := by omega

/-- `ROL` moves every bit of the ring one place up. -/
theorem ringBit_rol (p : Byte × Bool) (k : Fin 9) : ringBit (shiftPair .rol p) (k + 1) = ringBit p k := by
  obtain rfl | rfl | ⟨hk, hsucc⟩ := ringPlace_cases k
  · simp [ringBit, shiftPair, applyShift, rolOp, BitVec.getElem_cons]
  · simp [ringBit, shiftPair, applyShift, rolOp, BitVec.getElem_cons]
  · simp [ringBit, shiftPair, applyShift, rolOp, BitVec.getElem_cons, hsucc, hk.ne,
      (Nat.lt_succ_of_lt hk).ne]

/-- `ROR` moves every bit of the ring one place down. -/
theorem ringBit_ror (p : Byte × Bool) (k : Fin 9) : ringBit (shiftPair .ror p) k = ringBit p (k + 1) := by
  obtain rfl | rfl | ⟨hk, hsucc⟩ := ringPlace_cases k
  · simp [ringBit, shiftPair, applyShift, rorOp, BitVec.getElem_cons]
  · simp [ringBit, shiftPair, applyShift, rorOp, BitVec.getElem_cons]
  · simp [ringBit, shiftPair, applyShift, rorOp, BitVec.getElem_cons, hsucc, hk, hk.ne,
      (Nat.lt_succ_of_lt hk).ne, Nat.add_comm 1, BitVec.getLsbD_eq_getElem (Nat.succ_lt_succ hk)]

theorem leftInverse_ror_rol : Function.LeftInverse (shiftPair .ror) (shiftPair .rol) :=
  fun p => eq_of_ringBit_eq fun k => by rw [ringBit_ror, ringBit_rol]

theorem leftInverse_rol_ror : Function.LeftInverse (shiftPair .rol) (shiftPair .ror) := by
  refine fun p => eq_of_ringBit_eq fun k => ?_
  rw [← sub_add_cancel k 1, ringBit_rol, ringBit_ror]

theorem ringBit_iterate_rol (n : ℕ) (p : Byte × Bool) (k : Fin 9) :
    ringBit ((shiftPair .rol)^[n] p) (k + n • 1) = ringBit p k := by
  induction n with
  | zero => simp
  | succ n ih => rw [Function.iterate_succ_apply', succ_nsmul, ← add_assoc, ringBit_rol, ih]

/-- Nine places round the ring of nine are none. -/
theorem iterate_nine_rol (p : Byte × Bool) : (shiftPair .rol)^[9] p = p := by
  refine eq_of_ringBit_eq fun k => ?_
  have hround : k + 9 • (1 : Fin 9) = k := add_zero k
  rw [← ringBit_iterate_rol 9 p k, hround]

/-- Nine `ROR` undo nine `ROL`, which do nothing. -/
theorem iterate_nine_ror (p : Byte × Bool) : (shiftPair .ror)^[9] p = p := by
  have hundo := leftInverse_ror_rol.iterate 9 p
  rwa [iterate_nine_rol] at hundo

theorem asl_eq_rol_false (w : Byte) (c : Bool) : applyShift .asl w c = applyShift .rol w false := by
  rw [applyShift_eq_shifted, applyShift_eq_shifted]
  rfl

theorem lsr_eq_ror_false (w : Byte) (c : Bool) : applyShift .lsr w c = applyShift .ror w false := by
  rw [applyShift_eq_shifted, applyShift_eq_shifted]
  rfl

/-- Settles O58: the rotates turn the ring one place up and down; in numbers, a shift is
the rotate of carry 0. -/
theorem rotatesAreNineBitRotations : Obligations.RotatesAreNineBitRotations :=
  fun w c => ⟨leftInverse_ror_rol (w, c), leftInverse_rol_ror (w, c), iterate_nine_rol (w, c),
    iterate_nine_ror (w, c), asl_eq_rol_false w c, lsr_eq_ror_false w c⟩

end Sys2Proof.Machine

/-! # Proofs of the interface statements (spec/50_interfaces.md)

First each transaction of the host, as one equation per outcome; then the cells a load stages; then the port of a
step and the invariant of the block. -/

/-! ### What answers a transaction (R150 to R156, R197) -/

namespace Sys2Proof.Machine

open Sys2Proof.Spec

/-- Settles O49: the transaction's block and every field of it, as `State.resetAt` writes them. -/
theorem resetLeavesTheSpecsValues : Obligations.ResetLeavesTheSpecsValues :=
  fun _ _ => ⟨rfl, rfl, rfl, rfl, rfl, rfl, rfl, rfl, rfl, rfl, rfl, rfl, rfl, rfl, rfl⟩

theorem transact_load_of_fits {q : Addr} {bytes : List Byte} (h : q.toNat + bytes.length ≤ 65536) (p : Params)
    (k : Block) :
    transact p (.load q bytes) k = (.completed, { k with core := k.core.storeBytes q bytes }) :=
  if_pos h

theorem transact_load_of_past_end {q : Addr} {bytes : List Byte} (h : 65536 < q.toNat + bytes.length) (p : Params)
    (k : Block) : transact p (.load q bytes) k = (.refused (.loadPastEnd q bytes.length), k) :=
  if_neg (Nat.not_le.2 h)

/-- A load, completed or refused, reaches memory and nothing else. -/
theorem transact_load_eq_with_mem (p : Params) (q : Addr) (bytes : List Byte) (k : Block) :
    ∃ m, (transact p (.load q bytes) k).2 = { k with core := { k.core with mem := m } } := by
  obtain hfits | hpast := le_or_gt (q.toNat + bytes.length) 65536
  · rw [transact_load_of_fits hfits, storeBytes_eq_with_mem]
    exact ⟨_, rfl⟩
  · rw [transact_load_of_past_end hpast]
    exact ⟨k.core.mem, rfl⟩

/-- Settles O56: a load reaches memory, which no accessor shows; the accessors answer by definition. -/
theorem onlyResetAndStepReachTheRegisters : Obligations.OnlyResetAndStepReachTheRegisters := by
  refine ⟨fun p q bytes k => ?_, fun p k q => ⟨rfl, rfl⟩⟩
  obtain ⟨m, hload⟩ := transact_load_eq_with_mem p q bytes k
  rw [hload]
  rfl

theorem transact_step_before_reset {k : Block} (hk : k.resetDone = false) (p : Params) :
    transact p .step k = (.refused .stepBeforeReset, k) := by
  simp [transact, hostStep, hk]

theorem transact_step_of_pair {p : Params} {k : Block} {mn : Mnemonic} {md : Mode} {c : Control}
    (hk : k.resetDone = true) (h : PairAtPC p k.core mn md c) :
    transact p .step k =
      (.done (afterStep p md c k.core).cyc, { k with core := afterStep p md c k.core }) := by
  simp [transact, hostStep, hk, stepWith_of_pair h]

theorem transact_step_of_unknown {p : Params} {k : Block} (hk : k.resetDone = true)
    (h : controlFormat p.opcodeMap (k.core.cell k.core.pc) = none) :
    transact p .step k =
      (.unknownOpcode (k.core.cell k.core.pc), { k with core := afterUnknown k.core }) := by
  simp [transact, hostStep, hk, stepWith_of_unknown h]

/-- A pair at `PC` is what the decode stage finds there (R54). -/
theorem controlFormat_isSome_of_pairAtPC {p : Params} {s : State} {mn : Mnemonic} {md : Mode} {c : Control}
    (h : PairAtPC p s mn md c) : (controlFormat p.opcodeMap (s.cell s.pc)).isSome = true := by
  obtain ⟨hmap, f, rest, hf, -⟩ := h
  rw [controlFormat_of_pair hmap, hf]
  rfl

/-- The count that a step reports (R16, R155). -/
theorem afterStep_cyc_bounds {p : Params} {s : State} {mn : Mnemonic} {md : Mode} {c : Control}
    (h : PairAtPC p s mn md c) :
    1 ≤ (afterStep p md c s).cyc.toNat ∧ (afterStep p md c s).cyc.toNat ≤ 8 ∧
      (md ∈ mn.modes → (afterStep p md c s).cyc.toNat ≤ 7) := by
  rw [afterStep_cyc_toNat h]
  exact ⟨one_le_cycleCount p mn md c s, pairAtPC_cycleCount_le h⟩

/-- Settles O55: what the byte at `PC` is decides which step the host runs, and that step's state is the
block's; the default parameters are within the matrix. -/
theorem hostStepReports : Obligations.HostStepReports := by
  refine ⟨fun p k => ⟨fun hk => ?_, fun hk => transact_step_before_reset hk p⟩, fun k hk => ?_⟩
  · obtain hunknown | ⟨mn, md, c, hpair⟩ := unknown_or_pairAtPC p k.core
    · rw [transact_step_of_unknown hk hunknown]
      exact ⟨hk, .inr ⟨rfl, rfl, stepWith_of_unknown hunknown, Option.isNone_iff_eq_none.2 hunknown⟩⟩
    · obtain ⟨hone, height, -⟩ := afterStep_cyc_bounds hpair
      rw [transact_step_of_pair hk hpair]
      exact ⟨hk, .inl ⟨_, rfl, hone, height, rfl, stepWith_of_pair hpair,
        controlFormat_isSome_of_pairAtPC hpair⟩⟩
  · rw [step_eq_stepWith_default]
    obtain hunknown | ⟨mn, md, c, hpair⟩ := unknown_or_pairAtPC Params.default k.core
    · rw [transact_step_of_unknown hk hunknown]
      exact .inr ⟨_, rfl, stepWith_of_unknown hunknown⟩
    · obtain ⟨hone, -, hseven⟩ := afterStep_cyc_bounds hpair
      rw [transact_step_of_pair hk hpair]
      exact .inl ⟨_, rfl, hone, hseven (withinMatrix_default _ _ _ hpair.1), stepWith_of_pair hpair⟩

end Sys2Proof.Machine

/-! ### The cells a load stages (R153) -/

namespace Sys2Proof.Machine

theorem add_one_add_ofNat (q : Addr) (j : Nat) : q + 1 + BitVec.ofNat 16 j = q + BitVec.ofNat 16 (j + 1) := by
  rw [BitVec.add_assoc, Nat.add_comm j 1, BitVec.ofNat_add]
  rfl

/-- A cell that no byte lands on is kept. -/
theorem cell_storeBytes_other {bytes : List Byte} {q q' : Addr}
    (h : ∀ j < bytes.length, q' ≠ q + BitVec.ofNat 16 j) (s : State) :
    (s.storeBytes q bytes).cell q' = s.cell q' := by
  induction bytes generalizing s q with
  | nil => rfl
  | cons w rest ih =>
    have hq : q' ≠ q := by simpa using h 0 (Nat.zero_lt_succ _)
    have hrest : ∀ j < rest.length, q' ≠ q + 1 + BitVec.ofNat 16 j := fun j hj => by
      rw [add_one_add_ofNat]
      exact h (j + 1) (Nat.succ_lt_succ hj)
    rw [State.storeBytes, ih hrest, cell_setCell_other s hq]

/-- Each byte lands on its own cell: no more bytes than there are cells, so none is written over. -/
theorem cell_storeBytes_at {bytes : List Byte} (hfits : bytes.length ≤ 65536) (q : Addr) (s : State) {j : Nat}
    (hj : j < bytes.length) : (s.storeBytes q bytes).cell (q + BitVec.ofNat 16 j) = bytes[j] := by
  induction bytes generalizing s q j with
  | nil => cases hj
  | cons w rest ih =>
    rw [List.length_cons] at hfits hj
    cases j with
    | zero =>
      have hlater : ∀ i < rest.length, q ≠ q + 1 + BitVec.ofNat 16 i := fun i hi => by bv_omega
      rw [BitVec.add_zero, State.storeBytes, cell_storeBytes_other hlater, cell_setCell_same]
      rfl
    | succ j =>
      rw [← add_one_add_ofNat]
      exact ih (by omega) (q + 1) (s.setCell q w) (by omega)

/-- Settles O54: a load that fits stores its bytes, and none of their addresses wraps. -/
theorem loadStagesTheBytes : Obligations.LoadStagesTheBytes := by
  refine fun p q bytes k => ⟨fun hfits => ?_, fun hpast => transact_load_of_past_end hpast p k⟩
  refine ⟨?_, fun j hj => ?_, fun q' hq' => ?_, transact_load_eq_with_mem p q bytes k⟩
  · rw [transact_load_of_fits hfits]
  · rw [transact_load_of_fits hfits]
    exact cell_storeBytes_at (by omega) q k.core hj
  · rw [transact_load_of_fits hfits]
    exact cell_storeBytes_other (fun j hj => by bv_omega) k.core

end Sys2Proof.Machine

/-! ### The port of a step (R158) -/

namespace Sys2Proof.Machine

/-- Settles O46: the instruction at `PC` is a pair of the default map, and the step of a pair does the
operations of the table. -/
theorem portFollowsTheBusTable : Obligations.PortFollowsTheBusTable := by
  refine ⟨fun s i h => ?_, fun p s mn md c h => ⟨_, stepWith_of_pair h, afterStep_port p md c s⟩⟩
  rw [step_eq_stepWith_default]
  exact ⟨_, stepWith_of_pair (pairAtPC_of_instrAtPC h), afterStep_port _ _ _ s⟩

end Sys2Proof.Machine

/-! ### The invariant of the block (R151, R157) -/

namespace Sys2Proof.Machine

open Sys2Proof.Spec

theorem invUpTo_resetAt (most : Nat) (entry sp : Addr) {m : Memory} (hm : m.wf = true) :
    InvUpTo most (State.resetAt entry sp m) :=
  ⟨hm, rfl, rfl, Nat.zero_le most, fun h => Bool.false_ne_true h.1, rfl, rfl, rfl⟩

theorem invUpTo_storeBytes {most : Nat} {s : State} (h : InvUpTo most s) (q : Addr) (bytes : List Byte) :
    InvUpTo most (s.storeBytes q bytes) := by
  obtain ⟨hmem, hrest⟩ := h
  rw [storeBytes_eq_with_mem]
  exact ⟨storeBytes_wf bytes s q hmem, hrest⟩

theorem blockInv_of_invUpTo {most : Nat} {k : Block} (h : InvUpTo most k.core) : BlockInv most k :=
  ⟨h.1, fun _ => h⟩

theorem blockInv_load {most : Nat} {k : Block} (h : BlockInv most k) (p : Params) (q : Addr) (bytes : List Byte) :
    BlockInv most (transact p (.load q bytes) k).2 := by
  obtain ⟨hmem, hinv⟩ := h
  obtain hfits | hpast := le_or_gt (q.toNat + bytes.length) 65536
  · rw [transact_load_of_fits hfits]
    exact ⟨storeBytes_wf bytes k.core q hmem, fun hk => invUpTo_storeBytes (hinv hk) q bytes⟩
  · rw [transact_load_of_past_end hpast]
    exact ⟨hmem, hinv⟩

/-- The parameters let no step take more than `most` cycles. -/
def CyclesAtMost (most : Nat) (p : Params) : Prop :=
  ∀ s mn md c, PairAtPC p s mn md c → cycleCount p mn md c s ≤ most

theorem cyclesAtMost_eight (p : Params) : CyclesAtMost 8 p :=
  fun _ _ _ _ hpair => (pairAtPC_cycleCount_le hpair).1

theorem cyclesAtMost_seven {p : Params} (h : WithinMatrix p) : CyclesAtMost 7 p :=
  fun _ _ _ _ hpair => (pairAtPC_cycleCount_le hpair).2 (h _ _ _ hpair.1)

theorem blockInv_step {most : Nat} (hmost : 1 ≤ most) {p : Params} (hp : CyclesAtMost most p) {k : Block}
    (h : BlockInv most k) : BlockInv most (transact p .step k).2 := by
  cases hk : k.resetDone with
  | false =>
    rw [transact_step_before_reset hk]
    exact h
  | true =>
    have hinv : InvUpTo most k.core := h.2 hk
    obtain hunknown | ⟨mn, md, c, hpair⟩ := unknown_or_pairAtPC p k.core
    · rw [transact_step_of_unknown hk hunknown]
      exact blockInv_of_invUpTo (invUpTo_afterUnknown hinv hmost)
    · rw [transact_step_of_pair hk hpair]
      exact blockInv_of_invUpTo (invUpTo_afterStep hinv hpair (hp _ _ _ _ hpair))

/-- Before the first reset only memory is bound, so a reset makes the rest of the invariant itself. -/
theorem transact_keeps_blockInv {most : Nat} (hmost : 1 ≤ most) {p : Params} (hp : CyclesAtMost most p)
    (tr : Transaction) {k : Block} (h : BlockInv most k) : BlockInv most (transact p tr k).2 := by
  cases tr with
  | reset => exact blockInv_of_invUpTo (invUpTo_resetAt most p.entryAddress p.spReset h.1)
  | load q bytes => exact blockInv_load h p q bytes
  | step => exact blockInv_step hmost hp h
  | observe | readCell q => exact h

/-- Settles O52: transaction by transaction, with the bound on a step's cycles that the map gives. -/
theorem transactionsKeepTheInvariant : Obligations.TransactionsKeepTheInvariant :=
  fun p tr _ => ⟨transact_keeps_blockInv (by decide) (cyclesAtMost_eight p) tr,
    fun hmatrix => transact_keeps_blockInv (by decide) (cyclesAtMost_seven hmatrix) tr, withinMatrix_default⟩

end Sys2Proof.Machine

/-! # Proofs of the statements on exceptions, reset and hazards (spec/60_exceptions.md, spec/70_reset_and_hazards.md)

The two answers of a step, by whether the byte at `PC` has a handler; then the count a completed step reports;
then the memory that a reset keeps. -/

/-! ### The unknown opcode (R171, R172) -/

namespace Sys2Proof.Machine

/-- Settles O43: `afterUnknown` is that state. -/
theorem unknownOpcodeLeavesTheState : Obligations.UnknownOpcodeLeavesTheState :=
  fun _ _ => stepWith_of_unknown

/-- A byte with a handler makes a pair with the two bytes after it, and the step of a pair completes. -/
theorem stepWith_next_of_controlFormat {p : Params} {s : State} {f : Format Control}
    (h : controlFormat p.opcodeMap (s.cell s.pc) = some f) : ∃ t, stepWith p s = .next t := by
  obtain hunknown | ⟨mn, md, c, hpair⟩ := unknown_or_pairAtPC p s
  · cases h.symm.trans hunknown
  · exact ⟨_, stepWith_of_pair hpair⟩

/-- Settles O42: the fault carries `afterUnknown`, and neither a step with a handler nor a handler raises it. -/
theorem stepFaultsExactlyOnUnknownOpcode : Obligations.StepFaultsExactlyOnUnknownOpcode :=
  fun _ s => ⟨fun hunknown => ⟨afterUnknown s, stepWith_of_unknown hunknown, rfl, rfl⟩,
    fun _ => stepWith_next_of_controlFormat, fun i => ⟨_, exec_eq_execute i s⟩⟩

end Sys2Proof.Machine

/-! ### The count of a completed step (R199) -/

namespace Sys2Proof.Machine

/-- Settles O45: the instruction at `PC` is a pair of the default map, and the step of a pair takes the
formula's cycles. -/
theorem cyclesFollowTheFormula : Obligations.CyclesFollowTheFormula := by
  refine ⟨fun s i h => ?_, fun p s mn md c h => ⟨_, stepWith_of_pair h, afterStep_cyc_toNat h⟩⟩
  have hpair := pairAtPC_of_instrAtPC h
  rw [step_eq_stepWith_default]
  exact ⟨_, stepWith_of_pair hpair, afterStep_cyc_toNat hpair⟩

end Sys2Proof.Machine

/-! ### Memory across a reset (R194, R197) -/

namespace Sys2Proof.Machine

theorem transact_reset_mem (p : Params) (k : Block) : (transact p .reset k).2.core.mem = k.core.mem := rfl

/-- Settles O53: a cell is read from memory, which `State.resetAt` takes over from the block. -/
theorem hostResetKeepsMemory : Obligations.HostResetKeepsMemory :=
  fun p k => ⟨rfl, transact_reset_mem p k, cell_of_mem_eq (transact_reset_mem p k)⟩

end Sys2Proof.Machine
